-- ==== Sys2Proof/Config.lean ====
section
/-! DEFINITION. The fixed parameters of R8 that more than one file uses, and the open parameters of R9 as constants without a body. -/
namespace Sys2Proof.Config

/-- `FB_WIDTH`, columns of the framebuffer (R8). -/
@[simp] abbrev fbWidth : Nat := 300

/-- `FB_HEIGHT`, rows of the framebuffer (R8). -/
@[simp] abbrev fbHeight : Nat := 216

/-- `FB_CELLS` (R8). -/
@[simp] abbrev fbCells : Nat := 64800

/-- `TILE_W`, columns of a tile (R8). -/
@[simp] abbrev tileWidth : Nat := 6

/-- `TILE_H`, rows of a tile (R8). -/
@[simp] abbrev tileHeight : Nat := 12

/-- `CDG_COMMAND`, the command code of a graphics record (R8, R74). -/
@[simp] abbrev cdgCommand : BitVec 6 := 9

/-- Free: how far `MAX_SCALE` lies above `SCALE_MIN` = 1. The spec leaves `MAX_SCALE` open (R9, D12), so it has no body (log 6). -/
opaque maxScaleAboveOne : Nat

/-- `MAX_SCALE`: any integer that is at least 1 (R9). -/
def maxScale : Nat := maxScaleAboveOne + 1

/-- Free: how many bits `rnd_scale` has beyond those `MAX_SCALE` needs (R9, D12, log 6). -/
opaque scaleSpareBits : Nat

/-- `SCALE_W`: any width with `2 ^ SCALE_W - 1 ≥ MAX_SCALE` (R9). -/
def scaleWidth : Nat := maxScale.log2 + 1 + scaleSpareBits

end Sys2Proof.Config
end

