-- ==== Sys2Proof/Word.lean ====
section
/-! DEFINITION. The plain word types of the block (00_scope.md R11, R12: every value is unsigned, bit 0 is the least significant). -/
namespace Sys2Proof

/-- A `u8`: a record byte, a framebuffer cell, a color channel or an output byte. -/
abbrev Byte := BitVec 8

/-- A `u4`: a palette index carried by a record, a repeat count, a wire color channel. -/
abbrev Nibble := BitVec 4

/-- A record of exactly 24 bytes, `rec[0]` the first byte of the stream (R54, R70). -/
abbrev Record := Vector Byte 24

/-- The sixteen payload bytes of a record (R72). -/
abbrev Payload := Vector Byte 16

/-- Zero extension to eight bits (R12's `zext_8`). -/
abbrev zext8 (v : Nibble) : Byte := v.setWidth 8

end Sys2Proof
end

