-- ==== Sys2Proof/Syntax.lean ====
section
/-! DEFINITION. The decoded instructions: one constructor per row of spec/opcode_table.json (R15, R75, R174). -/
namespace Sys2Proof

/-- A quantized color `{r, g, b}` as the decoder hands it to the applicator (R102). -/
structure Rgb where
  r : Byte
  g : Byte
  b : Byte
deriving DecidableEq, Repr

/-- A decoded instruction. The three unimplemented codes, the 54 reserved codes and the non-graphics record act as NoOp;
they keep constructors of their own because the first 57 report their code (R104) and the table lists each (R75, R173). -/
inductive Instr where
  /-- Code 0 (R121). -/
  | nop
  /-- Code 1 (R122): `rep` is the field the spec calls `repeat`. -/
  | memoryPreset (color rep : Nibble)
  /-- Code 2 (R124). -/
  | borderPreset (color : Nibble)
  | reserved3
  | reserved4
  | reserved5
  /-- Code 6 (R141): `row` and `column` are pixel offsets, already multiplied by 12 and 6 (R15). -/
  | tileBlock (color0 color1 : Nibble) (row column : Nat) (bitmap : Vector Byte 12)
  | reserved7
  | reserved8
  | reserved9
  | reserved10
  | reserved11
  | reserved12
  | reserved13
  | reserved14
  | reserved15
  | reserved16
  | reserved17
  | reserved18
  | reserved19
  /-- Code 20: documented, unimplemented (R170). -/
  | scrollPreset
  | reserved21
  | reserved22
  | reserved23
  /-- Code 24: documented, unimplemented (R171). -/
  | scrollCopy
  | reserved25
  | reserved26
  | reserved27
  /-- Code 28: documented, unimplemented (R172). -/
  | defineTransparentColor
  | reserved29
  /-- Code 30 (R160): the eight quantized colors, in order. -/
  | loadColorTableLow (entries : Vector Rgb 8)
  /-- Code 31 (R161): the eight quantized colors, in order. -/
  | loadColorTableHigh (entries : Vector Rgb 8)
  | reserved32
  | reserved33
  | reserved34
  | reserved35
  | reserved36
  | reserved37
  /-- Code 38 (R142): the payload shape of `tileBlock`. -/
  | tileBlockXor (color0 color1 : Nibble) (row column : Nat) (bitmap : Vector Byte 12)
  | reserved39
  | reserved40
  | reserved41
  | reserved42
  | reserved43
  | reserved44
  | reserved45
  | reserved46
  | reserved47
  | reserved48
  | reserved49
  | reserved50
  | reserved51
  | reserved52
  | reserved53
  | reserved54
  | reserved55
  | reserved56
  | reserved57
  | reserved58
  | reserved59
  | reserved60
  | reserved61
  | reserved62
  | reserved63
  /-- Any record whose command code is not 9 (R174); nothing of it is an operand. -/
  | nonGraphics
deriving DecidableEq, Repr

end Sys2Proof
end

