-- ==== Sys2Proof/WellFormed.lean ====
section
/-! DEFINITION. Which decoded instructions a record can carry: the operand ranges of R79 and R102. Only the encoder and the
statements about encodings use it; the meanings are given for every operand. -/
namespace Sys2Proof

/-- A tile's pixel row offset is a multiple of 12 up to 372 (R79). -/
def wfRow (row : Nat) : Bool := row % 12 == 0 && decide (row ≤ 372)

/-- A tile's pixel column offset is a multiple of 6 up to 378 (R79). -/
def wfColumn (column : Nat) : Bool := column % 6 == 0 && decide (column ≤ 378)

/-- Every quantized channel is a multiple of 17 (R103). -/
def wfChannel (c : Byte) : Bool := c.toNat % 17 == 0

def wfRgb (e : Rgb) : Bool := wfChannel e.r && wfChannel e.g && wfChannel e.b

def wfEntries (entries : Vector Rgb 8) : Bool := entries.toList.all wfRgb

/-- The instruction is one that some record decodes to. -/
def Instr.wf : Instr → Bool
  | .tileBlock _ _ row column _ => wfRow row && wfColumn column
  | .tileBlockXor _ _ row column _ => wfRow row && wfColumn column
  | .loadColorTableLow entries => wfEntries entries
  | .loadColorTableHigh entries => wfEntries entries
  | _ => true

end Sys2Proof
end

