-- ==== Sys2Proof/Decode.lean ====
section
/-! DEFINITION. The decoder with its color quantizer (40_decoder.md), the encoder written from the same tables
(30_encoding.md), the opcode table's rows (R73) and the record as the port's 192 bits carry it (R32). -/
namespace Sys2Proof

/-! ### Fields of a record -/

/-- The command code, `rec[0][5:0]` (R71). -/
def commandCode (rec : Record) : BitVec 6 := rec[0].extractLsb' 0 6

/-- The instruction code, `rec[1][5:0]` (R71). -/
def instrCode (rec : Record) : BitVec 6 := rec[1].extractLsb' 0 6

/-- `payload[k] = rec[4 + k]` (R72). -/
def payload (rec : Record) (k : Fin 16) : Byte := rec[4 + k.val]

/-- `row = (payload[2] & 0x1F) * 12` (R79). -/
def tileRow (rec : Record) : Nat := ((payload rec 2).extractLsb' 0 5).toNat * 12

/-- `column = (payload[3] & 0x3F) * 6` (R79). -/
def tileColumn (rec : Record) : Nat := ((payload rec 3).extractLsb' 0 6).toNat * 6

/-- `bitmap = payload[4..16)`, all eight bits of each byte (R79). -/
def tileBitmap (rec : Record) : Vector Byte 12 := Vector.ofFn fun i => payload rec ⟨4 + i.val, by omega⟩

/-! ### Color quantizer -/

/-- `Expand` (R103): `v * 255 / 15` on naturals, truncating. -/
def expand (v : Nibble) : Byte := BitVec.ofNat 8 (v.toNat * 255 / 15)

/-- `Quantize` (R102): red is `byte0[5:2]`, green is `byte0[1:0]` above `byte1[5:4]` (D2), blue is `byte1[3:0]`. -/
def quantize (byte0 byte1 : Byte) : Rgb :=
  { r := expand (byte0.extractLsb' 2 4)
    g := expand (byte0.extractLsb' 0 2 ++ byte1.extractLsb' 4 2)
    b := expand (byte1.extractLsb' 0 4) }

/-- Entry `k` is `Quantize(payload[2k], payload[2k+1])` (R80). -/
def clutEntries (rec : Record) : Vector Rgb 8 :=
  Vector.ofFn fun k => quantize (payload rec ⟨2 * k.val, by omega⟩) (payload rec ⟨2 * k.val + 1, by omega⟩)

/-! ### Decode -/

/-- The instruction of a graphics record by its instruction code (R75, R101): all 64 codes, the last arm being 63. -/
def decodeGraphics (rec : Record) : Nat → Instr
  | 0 => .nop
  | 1 => .memoryPreset ((payload rec 0).extractLsb' 0 4) ((payload rec 1).extractLsb' 0 4)
  | 2 => .borderPreset ((payload rec 0).extractLsb' 0 4)
  | 3 => .reserved3
  | 4 => .reserved4
  | 5 => .reserved5
  | 6 => .tileBlock ((payload rec 0).extractLsb' 0 4) ((payload rec 1).extractLsb' 0 4) (tileRow rec) (tileColumn rec) (tileBitmap rec)
  | 7 => .reserved7
  | 8 => .reserved8
  | 9 => .reserved9
  | 10 => .reserved10
  | 11 => .reserved11
  | 12 => .reserved12
  | 13 => .reserved13
  | 14 => .reserved14
  | 15 => .reserved15
  | 16 => .reserved16
  | 17 => .reserved17
  | 18 => .reserved18
  | 19 => .reserved19
  | 20 => .scrollPreset
  | 21 => .reserved21
  | 22 => .reserved22
  | 23 => .reserved23
  | 24 => .scrollCopy
  | 25 => .reserved25
  | 26 => .reserved26
  | 27 => .reserved27
  | 28 => .defineTransparentColor
  | 29 => .reserved29
  | 30 => .loadColorTableLow (clutEntries rec)
  | 31 => .loadColorTableHigh (clutEntries rec)
  | 32 => .reserved32
  | 33 => .reserved33
  | 34 => .reserved34
  | 35 => .reserved35
  | 36 => .reserved36
  | 37 => .reserved37
  | 38 => .tileBlockXor ((payload rec 0).extractLsb' 0 4) ((payload rec 1).extractLsb' 0 4) (tileRow rec) (tileColumn rec) (tileBitmap rec)
  | 39 => .reserved39
  | 40 => .reserved40
  | 41 => .reserved41
  | 42 => .reserved42
  | 43 => .reserved43
  | 44 => .reserved44
  | 45 => .reserved45
  | 46 => .reserved46
  | 47 => .reserved47
  | 48 => .reserved48
  | 49 => .reserved49
  | 50 => .reserved50
  | 51 => .reserved51
  | 52 => .reserved52
  | 53 => .reserved53
  | 54 => .reserved54
  | 55 => .reserved55
  | 56 => .reserved56
  | 57 => .reserved57
  | 58 => .reserved58
  | 59 => .reserved59
  | 60 => .reserved60
  | 61 => .reserved61
  | 62 => .reserved62
  | _ => .reserved63

/-- `Decode` (R100, R101): total, and a function of the record alone; the command gate comes first (R74, C1). -/
def decode (rec : Record) : Instr :=
  if commandCode rec = Config.cdgCommand then decodeGraphics rec (instrCode rec).toNat else .nonGraphics

/-- Why bytes are no record: the one thing that can be wrong is their number (R70, R85). -/
inductive DecodeReject where
  /-- These many bytes are not 24. The record port cannot deliver them (R32). -/
  | notOneRecord (length : Nat)
deriving DecidableEq, Repr

/-- The decoder on any bytes: a whole record is decoded, any other number of bytes is rejected by name. -/
def decodeBytes (bytes : List Byte) : Except DecodeReject Instr :=
  if h : bytes.length = 24 then .ok (decode ⟨bytes.toArray, by simpa using h⟩) else .error (.notOneRecord bytes.length)

/-! ### Encode -/

/-- A record from its first two bytes and its payload; parity bytes 0 (R86). -/
def makeRecord (command code : Byte) (p : Payload) : Record :=
  #v[command, code, 0, 0, p[0], p[1], p[2], p[3], p[4], p[5], p[6], p[7], p[8], p[9], p[10], p[11], p[12], p[13], p[14],
    p[15], 0, 0, 0, 0]

def emptyPayload : Payload := #v[0, 0, 0, 0, 0, 0, 0, 0, 0, 0, 0, 0, 0, 0, 0, 0]

/-- The tile payload (R79): colors, tile indices (pixel offsets divided by 12 and 6) and the twelve bitmap bytes. -/
def tilePayload (color0 color1 : Nibble) (row column : Nat) (bm : Vector Byte 12) : Payload :=
  #v[zext8 color0, zext8 color1, BitVec.ofNat 8 (row / 12), BitVec.ofNat 8 (column / 6), bm[0], bm[1], bm[2], bm[3], bm[4],
    bm[5], bm[6], bm[7], bm[8], bm[9], bm[10], bm[11]]

/-- The wire channel of an expanded one (R103 read backwards). -/
def wireChannel (c : Byte) : Nibble := BitVec.ofNat 4 (c.toNat / 17)

/-- The first wire byte of a color, `00 RRRR GG` (R80). -/
def wireByte0 (e : Rgb) : Byte := 0#2 ++ wireChannel e.r ++ (wireChannel e.g).extractLsb' 2 2

/-- The second wire byte of a color, `00 GG BBBB` (R80). -/
def wireByte1 (e : Rgb) : Byte := 0#2 ++ (wireChannel e.g).extractLsb' 0 2 ++ wireChannel e.b

/-- The color table payload: eight colors, two bytes each, in order (R80). -/
def clutPayload (es : Vector Rgb 8) : Payload :=
  #v[wireByte0 es[0], wireByte1 es[0], wireByte0 es[1], wireByte1 es[1], wireByte0 es[2], wireByte1 es[2], wireByte0 es[3],
    wireByte1 es[3], wireByte0 es[4], wireByte1 es[4], wireByte0 es[5], wireByte1 es[5], wireByte0 es[6], wireByte1 es[6],
    wireByte0 es[7], wireByte1 es[7]]

/-- The instruction code of a graphics instruction (R75). A non-graphics record has none; it is encoded with code 0. -/
def codeOf : Instr → Nat
  | .nop => 0
  | .memoryPreset _ _ => 1
  | .borderPreset _ => 2
  | .reserved3 => 3
  | .reserved4 => 4
  | .reserved5 => 5
  | .tileBlock _ _ _ _ _ => 6
  | .reserved7 => 7
  | .reserved8 => 8
  | .reserved9 => 9
  | .reserved10 => 10
  | .reserved11 => 11
  | .reserved12 => 12
  | .reserved13 => 13
  | .reserved14 => 14
  | .reserved15 => 15
  | .reserved16 => 16
  | .reserved17 => 17
  | .reserved18 => 18
  | .reserved19 => 19
  | .scrollPreset => 20
  | .reserved21 => 21
  | .reserved22 => 22
  | .reserved23 => 23
  | .scrollCopy => 24
  | .reserved25 => 25
  | .reserved26 => 26
  | .reserved27 => 27
  | .defineTransparentColor => 28
  | .reserved29 => 29
  | .loadColorTableLow _ => 30
  | .loadColorTableHigh _ => 31
  | .reserved32 => 32
  | .reserved33 => 33
  | .reserved34 => 34
  | .reserved35 => 35
  | .reserved36 => 36
  | .reserved37 => 37
  | .tileBlockXor _ _ _ _ _ => 38
  | .reserved39 => 39
  | .reserved40 => 40
  | .reserved41 => 41
  | .reserved42 => 42
  | .reserved43 => 43
  | .reserved44 => 44
  | .reserved45 => 45
  | .reserved46 => 46
  | .reserved47 => 47
  | .reserved48 => 48
  | .reserved49 => 49
  | .reserved50 => 50
  | .reserved51 => 51
  | .reserved52 => 52
  | .reserved53 => 53
  | .reserved54 => 54
  | .reserved55 => 55
  | .reserved56 => 56
  | .reserved57 => 57
  | .reserved58 => 58
  | .reserved59 => 59
  | .reserved60 => 60
  | .reserved61 => 61
  | .reserved62 => 62
  | .reserved63 => 63
  | .nonGraphics => 0

/-- The payload bytes an instruction's format names (R76 to R80), every other bit 0 (R86). -/
def payloadOf : Instr → Payload
  | .memoryPreset color rep => #v[zext8 color, zext8 rep, 0, 0, 0, 0, 0, 0, 0, 0, 0, 0, 0, 0, 0, 0]
  | .borderPreset color => #v[zext8 color, 0, 0, 0, 0, 0, 0, 0, 0, 0, 0, 0, 0, 0, 0, 0]
  | .tileBlock color0 color1 row column bitmap => tilePayload color0 color1 row column bitmap
  | .tileBlockXor color0 color1 row column bitmap => tilePayload color0 color1 row column bitmap
  | .loadColorTableLow entries => clutPayload entries
  | .loadColorTableHigh entries => clutPayload entries
  | _ => emptyPayload

/-- The first record byte: command 9, and for the non-graphics record command 0, one of the 63 that are not 9 (log 9). -/
def commandByteOf : Instr → Byte
  | .nonGraphics => 0x00
  | _ => 0x09

/-- The record of an instruction as the notation of R86 assembles it: every bit no field names is 0. -/
def encode (i : Instr) : Record := makeRecord (commandByteOf i) (BitVec.ofNat 8 (codeOf i)) (payloadOf i)

/-- The payload bits that the format of an instruction code names (R76 to R80). -/
def payloadMask : Nat → Payload
  | 1 => #v[0x0F, 0x0F, 0, 0, 0, 0, 0, 0, 0, 0, 0, 0, 0, 0, 0, 0]
  | 2 => #v[0x0F, 0, 0, 0, 0, 0, 0, 0, 0, 0, 0, 0, 0, 0, 0, 0]
  | 6 => #v[0x0F, 0x0F, 0x1F, 0x3F, 0xFF, 0xFF, 0xFF, 0xFF, 0xFF, 0xFF, 0xFF, 0xFF, 0xFF, 0xFF, 0xFF, 0xFF]
  | 38 => #v[0x0F, 0x0F, 0x1F, 0x3F, 0xFF, 0xFF, 0xFF, 0xFF, 0xFF, 0xFF, 0xFF, 0xFF, 0xFF, 0xFF, 0xFF, 0xFF]
  | 30 => Vector.replicate 16 0x3F
  | 31 => Vector.replicate 16 0x3F
  | _ => emptyPayload

/-- A graphics record with every bit set to 0 that no field names: bits 7:6 of the first two bytes, the parity bytes, and the
payload bits outside the format (R71, R72, R82). -/
def namedBits (rec : Record) : Record :=
  makeRecord (rec[0] &&& 0x3F) (rec[1] &&& 0x3F)
    (Vector.ofFn fun k => payload rec k &&& (payloadMask (instrCode rec).toNat)[k])

/-! ### The opcode table -/

/-- A row of spec/opcode_table.json: it matches a key when `key & mask = pattern`, the other way round if `negate` (R73, R74). -/
structure OpcodeRow where
  mnemonic : String
  mask     : BitVec 16
  pattern  : BitVec 16
  negate   : Bool
deriving DecidableEq, Repr

def graphicsRow (mnemonic : String) (code : Nat) : OpcodeRow :=
  { mnemonic := mnemonic, mask := 0x3F3F, pattern := BitVec.ofNat 16 (0x0900 + code), negate := false }

/-- The row of the records whose command is not 9 (R74). -/
def nonGraphicsRow : OpcodeRow := { mnemonic := "NON_GRAPHICS", mask := 0x3F00, pattern := 0x0900, negate := true }

/-- The table's 65 rows. -/
def opcodeTable : List OpcodeRow :=
  [graphicsRow "NOP" 0, graphicsRow "MEMORY_PRESET" 1, graphicsRow "BORDER_PRESET" 2, graphicsRow "RESERVED_3" 3,
   graphicsRow "RESERVED_4" 4, graphicsRow "RESERVED_5" 5, graphicsRow "TILE_BLOCK" 6, graphicsRow "RESERVED_7" 7,
   graphicsRow "RESERVED_8" 8, graphicsRow "RESERVED_9" 9, graphicsRow "RESERVED_10" 10, graphicsRow "RESERVED_11" 11,
   graphicsRow "RESERVED_12" 12, graphicsRow "RESERVED_13" 13, graphicsRow "RESERVED_14" 14, graphicsRow "RESERVED_15" 15] ++
  [graphicsRow "RESERVED_16" 16, graphicsRow "RESERVED_17" 17, graphicsRow "RESERVED_18" 18, graphicsRow "RESERVED_19" 19,
   graphicsRow "SCROLL_PRESET" 20, graphicsRow "RESERVED_21" 21, graphicsRow "RESERVED_22" 22, graphicsRow "RESERVED_23" 23,
   graphicsRow "SCROLL_COPY" 24, graphicsRow "RESERVED_25" 25, graphicsRow "RESERVED_26" 26, graphicsRow "RESERVED_27" 27,
   graphicsRow "DEFINE_TRANSPARENT_COLOR" 28, graphicsRow "RESERVED_29" 29, graphicsRow "LOAD_COLOR_TABLE_LOW" 30, graphicsRow "LOAD_COLOR_TABLE_HIGH" 31] ++
  [graphicsRow "RESERVED_32" 32, graphicsRow "RESERVED_33" 33, graphicsRow "RESERVED_34" 34, graphicsRow "RESERVED_35" 35,
   graphicsRow "RESERVED_36" 36, graphicsRow "RESERVED_37" 37, graphicsRow "TILE_BLOCK_XOR" 38, graphicsRow "RESERVED_39" 39,
   graphicsRow "RESERVED_40" 40, graphicsRow "RESERVED_41" 41, graphicsRow "RESERVED_42" 42, graphicsRow "RESERVED_43" 43,
   graphicsRow "RESERVED_44" 44, graphicsRow "RESERVED_45" 45, graphicsRow "RESERVED_46" 46, graphicsRow "RESERVED_47" 47] ++
  [graphicsRow "RESERVED_48" 48, graphicsRow "RESERVED_49" 49, graphicsRow "RESERVED_50" 50, graphicsRow "RESERVED_51" 51,
   graphicsRow "RESERVED_52" 52, graphicsRow "RESERVED_53" 53, graphicsRow "RESERVED_54" 54, graphicsRow "RESERVED_55" 55,
   graphicsRow "RESERVED_56" 56, graphicsRow "RESERVED_57" 57, graphicsRow "RESERVED_58" 58, graphicsRow "RESERVED_59" 59,
   graphicsRow "RESERVED_60" 60, graphicsRow "RESERVED_61" 61, graphicsRow "RESERVED_62" 62, graphicsRow "RESERVED_63" 63] ++
  [nonGraphicsRow]

def rowMatches (row : OpcodeRow) (key : BitVec 16) : Bool := ((key &&& row.mask) == row.pattern) != row.negate

/-- The key `K = {rec[0], rec[1]}` (R73). -/
def decodeKey (rec : Record) : BitVec 16 := rec[0] ++ rec[1]

/-- An instruction's mnemonic in the table. -/
def mnemonicOf : Instr → String
  | .nop => "NOP"
  | .memoryPreset _ _ => "MEMORY_PRESET"
  | .borderPreset _ => "BORDER_PRESET"
  | .reserved3 => "RESERVED_3"
  | .reserved4 => "RESERVED_4"
  | .reserved5 => "RESERVED_5"
  | .tileBlock _ _ _ _ _ => "TILE_BLOCK"
  | .reserved7 => "RESERVED_7"
  | .reserved8 => "RESERVED_8"
  | .reserved9 => "RESERVED_9"
  | .reserved10 => "RESERVED_10"
  | .reserved11 => "RESERVED_11"
  | .reserved12 => "RESERVED_12"
  | .reserved13 => "RESERVED_13"
  | .reserved14 => "RESERVED_14"
  | .reserved15 => "RESERVED_15"
  | .reserved16 => "RESERVED_16"
  | .reserved17 => "RESERVED_17"
  | .reserved18 => "RESERVED_18"
  | .reserved19 => "RESERVED_19"
  | .scrollPreset => "SCROLL_PRESET"
  | .reserved21 => "RESERVED_21"
  | .reserved22 => "RESERVED_22"
  | .reserved23 => "RESERVED_23"
  | .scrollCopy => "SCROLL_COPY"
  | .reserved25 => "RESERVED_25"
  | .reserved26 => "RESERVED_26"
  | .reserved27 => "RESERVED_27"
  | .defineTransparentColor => "DEFINE_TRANSPARENT_COLOR"
  | .reserved29 => "RESERVED_29"
  | .loadColorTableLow _ => "LOAD_COLOR_TABLE_LOW"
  | .loadColorTableHigh _ => "LOAD_COLOR_TABLE_HIGH"
  | .reserved32 => "RESERVED_32"
  | .reserved33 => "RESERVED_33"
  | .reserved34 => "RESERVED_34"
  | .reserved35 => "RESERVED_35"
  | .reserved36 => "RESERVED_36"
  | .reserved37 => "RESERVED_37"
  | .tileBlockXor _ _ _ _ _ => "TILE_BLOCK_XOR"
  | .reserved39 => "RESERVED_39"
  | .reserved40 => "RESERVED_40"
  | .reserved41 => "RESERVED_41"
  | .reserved42 => "RESERVED_42"
  | .reserved43 => "RESERVED_43"
  | .reserved44 => "RESERVED_44"
  | .reserved45 => "RESERVED_45"
  | .reserved46 => "RESERVED_46"
  | .reserved47 => "RESERVED_47"
  | .reserved48 => "RESERVED_48"
  | .reserved49 => "RESERVED_49"
  | .reserved50 => "RESERVED_50"
  | .reserved51 => "RESERVED_51"
  | .reserved52 => "RESERVED_52"
  | .reserved53 => "RESERVED_53"
  | .reserved54 => "RESERVED_54"
  | .reserved55 => "RESERVED_55"
  | .reserved56 => "RESERVED_56"
  | .reserved57 => "RESERVED_57"
  | .reserved58 => "RESERVED_58"
  | .reserved59 => "RESERVED_59"
  | .reserved60 => "RESERVED_60"
  | .reserved61 => "RESERVED_61"
  | .reserved62 => "RESERVED_62"
  | .reserved63 => "RESERVED_63"
  | .nonGraphics => "NON_GRAPHICS"

/-! ### Records as bits -/

/-- The record on the port: `rec[k] = rec_data[8k+7 : 8k]` (R32, D5). -/
def recordOfData (data : BitVec 192) : Record := Vector.ofFn fun k => data.extractLsb' (8 * k.val) 8

/-- A byte placed below the bytes that follow it. -/
def packByte (b : Byte) (later : BitVec 192) : BitVec 192 := (later <<< 8) ||| b.setWidth 192

/-- The bits a host drives for a record: `recordOfData` read backwards. -/
def dataOfRecord (rec : Record) : BitVec 192 := rec.toList.foldr packByte 0

/-- The record of a table word: the table's first word is the 16-bit key with `rec[0]` in its high byte (R73), and each
later byte `k` is bits `8k+7 : 8k`, as on the port; bits from `nbits` up are 0 (log 3). -/
def recordOfTableWord (nbits w : Nat) : Record :=
  let v := w % 2 ^ nbits
  Vector.ofFn fun k => BitVec.ofNat 8 (v / 2 ^ (8 * if k.val < 2 then 1 - k.val else k.val))

/-- What the decoder reads from a table word; a word longer than one record is none (R70). -/
def decodeTableWord (nbits w : Nat) : Option Instr :=
  if nbits ≤ 192 then some (decode (recordOfTableWord nbits w)) else none

end Sys2Proof
end

