-- ==== Sys2Proof/Machine/State.lean ====
section
/-! DEFINITION. The block's state (10_state.md R20), the host's side of the ports (R31), and the state after reset (R240). -/
namespace Sys2Proof.Machine

/-- Framebuffer contents as (linear address, cell) pairs (R51), in the canonical form of `memoryWf`: addresses rising and
below 64800, no cell equal to 0, which is what an address not listed holds (its reset value, R24). -/
abbrev Memory := List Host.Cell

/-- A color table entry `{r, g, b, a}` (R27). -/
structure ColorEntry where
  r : Byte
  g : Byte
  b : Byte
  a : Byte
deriving DecidableEq, Repr

/-- The kinds of diagnostic (R211). -/
inductive DiagKind where
  /-- A graphics record with an unimplemented or reserved instruction code (R104). -/
  | unknownInstr
  /-- The applicator received bus tag 7 (R126). -/
  | unknownTag
  /-- A tile block outside the grid (R144). -/
  | tileOob
  /-- A render request with a scale outside 1..MAX_SCALE (R181). -/
  | badScale
deriving DecidableEq, Repr

/-- A diagnostic: its kind and its six-bit code (R211). -/
structure Diagnostic where
  kind : DiagKind
  code : BitVec 6
deriving DecidableEq, Repr

/-- The order of the color bytes of an output pixel (R56, R183). -/
inductive ByteOrder where
  | rgb
  | bgr
deriving DecidableEq, Repr

/-- The interface phase (R37) with the inputs of the transaction in progress, which the block copies at the transfer
(R32, R33; log 4). -/
inductive Phase where
  /-- IDLE. -/
  | idle
  /-- APPLY: a Record transaction in progress. -/
  | apply (rec : Record)
  /-- RENDER: a Render transaction in progress; `word` is the number of its output words already transferred (R34). -/
  | render (scale : Nat) (order : ByteOrder) (word : Nat)
deriving DecidableEq, Repr

/-- What the host drives on the input ports at one rising edge (R31). `rndScale` is the value on the `SCALE_W` wires;
`rndOrder` is false for RGB and true for BGR. -/
structure PortInputs where
  rst      : Bool
  recValid : Bool
  recData  : BitVec 192
  rndValid : Bool
  rndScale : Nat
  rndOrder : Bool
  outReady : Bool
deriving DecidableEq, Repr

/-- A host that offers and takes nothing (R225). -/
def PortInputs.quiet : PortInputs :=
  { rst := false, recValid := false, recData := 0, rndValid := false, rndScale := 0, rndOrder := false, outReady := false }

/-- The state. `fb`, `ct`, `status` and `phase` are the architectural state (R20). `diag` is the
diagnostic, if any, of the transaction that completed at the edge just passed, the output that R38 gives a transaction; the
port drives it in the cycle that ends at that edge (`reportedDiag`; log 5). `edges` is the world outside: what the host will drive at the coming
edges, the next one first, and nothing after the last (log 2). -/
structure State where
  fb     : Memory
  ct     : Vector ColorEntry 16
  status : BitVec 8
  phase  : Phase
  diag   : Option Diagnostic
  edges  : List PortInputs
deriving DecidableEq, Repr

/-- Reasons to stop with a fault. The block itself has none: no condition is fatal (R210). -/
inductive Fault where
  /-- Raised by `drawRect` for a rectangle that does not lie inside the 216 × 300 grid, where the block has no memory
  (R51, R61). Safe: the machine stops. No instruction ever raises it, because the range check of R144 comes first. -/
  | outsideFramebuffer (row column : Nat)
deriving DecidableEq, Repr

/-- Reasons to refuse. -/
inductive Refusal where
  /-- For an instruction without a meaning, by its mnemonic. Safe: the machine stops. No arm of `exec` raises it. -/
  | notModelled (mnemonic : String)
deriving DecidableEq, Repr

/-- Named updates of one field each; their lemmas are in Laws/State.lean. -/
def State.setFb (s : State) (m : Memory) : State := { s with fb := m }

def State.setCt (s : State) (t : Vector ColorEntry 16) : State := { s with ct := t }

def State.setStatus (s : State) (v : BitVec 8) : State := { s with status := v }

def State.setPhase (s : State) (p : Phase) : State := { s with phase := p }

def State.setDiag (s : State) (d : Option Diagnostic) : State := { s with diag := d }

def State.setEdges (s : State) (es : List PortInputs) : State := { s with edges := es }

/-- The block right after reset (R240, R253), with a host that has announced nothing yet. -/
def State.reset : State :=
  { fb := [], ct := Vector.replicate 16 { r := 0, g := 0, b := 0, a := 0 }, status := 0, phase := .idle, diag := none,
    edges := [] }

end Sys2Proof.Machine
end

