-- ==== Sys2Proof/Machine/Flags.lean ====
section
/-! DEFINITION. The sticky bits of `STATUS` and the numbers of the diagnostic kinds (R30, R211). The block has no other flags
(R23). -/
namespace Sys2Proof.Machine

/-- The bit of `STATUS` a diagnostic kind sets (R30). -/
def statusBit : DiagKind → Nat
  | .unknownInstr => 0
  | .unknownTag => 1
  | .tileOob => 2
  | .badScale => 3

/-- The value of a kind on `diag_kind` (R211). -/
def kindValue : DiagKind → BitVec 2
  | .unknownInstr => 0
  | .unknownTag => 1
  | .tileOob => 2
  | .badScale => 3

/-- A kind's sticky bit alone, as a `STATUS` value. -/
def statusMask (k : DiagKind) : BitVec 8 := 1#8 <<< statusBit k

/-- `STATUS.f <- 1` (R13): the other bits stay. -/
def setSticky (k : DiagKind) (status : BitVec 8) : BitVec 8 := status ||| statusMask k

/-- Whether a kind's sticky bit is set. -/
def stickySet (k : DiagKind) (status : BitVec 8) : Bool := status.getLsbD (statusBit k)

end Sys2Proof.Machine
end

