-- ==== Sys2Proof/Machine/Operands.lean ====
section
/-! DEFINITION. What the operands address: rectangles of the framebuffer (R51, R60), the tile's bit test (R140) and the color
table's halves (R52). -/
namespace Sys2Proof.Machine

/-- A rectangle of cells: `height` rows from `top`, `width` columns from `left`. -/
structure Rect where
  top    : Nat
  left   : Nat
  height : Nat
  width  : Nat
deriving DecidableEq, Repr

/-- The linear address of `FB[y][x]` (R51). -/
def cellAddr (y x : Nat) : Nat := 300 * y + x

/-- The row and the column of a linear address (R51). -/
def addrRow (a : Nat) : Nat := a / 300

def addrColumn (a : Nat) : Nat := a % 300

/-- Whether a rectangle lies inside the grid. -/
def rectInGrid (q : Rect) : Bool := decide (q.top + q.height ≤ 216) && decide (q.left + q.width ≤ 300)

/-- Whether a rectangle covers the cell in row `y` and column `x`. -/
def rectCovers (q : Rect) (y x : Nat) : Bool :=
  decide (q.top ≤ y) && decide (y < q.top + q.height) && decide (q.left ≤ x) && decide (x < q.left + q.width)

/-- The linear addresses of one row of a rectangle, left to right. -/
def rowAddrs (q : Rect) (i : Nat) : List Nat := (List.range q.width).map fun j => cellAddr (q.top + i) (q.left + j)

/-- The linear addresses of a rectangle, row by row. -/
def rectAddrs (q : Rect) : List Nat := (List.range q.height).flatMap (rowAddrs q)

/-- The whole grid (R122). -/
def wholeGrid : Rect := { top := 0, left := 0, height := 216, width := 300 }

/-- The top border: rows 0 to 11, all columns (R124). -/
def topBorder : Rect := { top := 0, left := 0, height := 12, width := 300 }

/-- The left border: columns 0 to 5 of rows 12 to 203 (R124). -/
def leftBorder : Rect := { top := 12, left := 0, height := 192, width := 6 }

/-- The right border: columns 294 to 299 of rows 12 to 203 (R124). There is no bottom border (R125). -/
def rightBorder : Rect := { top := 12, left := 294, height := 192, width := 6 }

/-- The cells of the tile block at a pixel offset (R140). -/
def tileRect (row column : Nat) : Rect := { top := row, left := column, height := 12, width := 6 }

/-- Whether a tile block lies outside the grid (R141, R142, R144). -/
def tileOutside (row column : Nat) : Bool := decide (row + 12 > 216) || decide (column + 6 > 300)

/-- `Sel` (R140): bit `0x20 >> j` of bitmap byte `i` selects `color1`, a clear bit `color0`. -/
def sel (bitmap : Vector Byte 12) (i j : Nat) (color0 color1 : Nibble) : Nibble :=
  if bitmap.toList.getD i 0 &&& (0x20#8 >>> j) ≠ 0 then color1 else color0

/-- The entry a load stores for a quantized color: alpha is `0xFF` (R160, D8). -/
def opaqueEntry (e : Rgb) : ColorEntry := { r := e.r, g := e.g, b := e.b, a := 0xFF }

/-- The table after entries `base` to `base + 7` are overwritten with eight colors, in order (R160, R161). (Irreducible, so
that comparing two states never computes a table; `loadHalf_get` says what it does.) -/
@[irreducible] def loadHalf (base : Nat) (entries : Vector Rgb 8) (ct : Vector ColorEntry 16) : Vector ColorEntry 16 :=
  Vector.ofFn fun i =>
    if h : base ≤ i.val ∧ i.val < base + 8 then opaqueEntry (entries[i.val - base]'(by omega)) else ct[i]

end Sys2Proof.Machine
end

