-- ==== Sys2Proof/Machine/Ops.lean ====
section
/-! DEFINITION. The shared operations: reading and writing framebuffer cells, drawing a rectangle, and raising a diagnostic,
which is all the block has in place of taking an exception (R210, R217; there is nothing to return from, R218). -/
namespace Sys2Proof.Machine

/-! ### Framebuffer memory -/

/-- What a cell that is not listed holds: its reset value (R24). -/
def unlistedCell : Byte := 0

/-- `MemRead(FB, a, 1)` (R51): the listed cell, or `unlistedCell`. -/
def memRead : Memory → Nat → Byte
  | [], _ => unlistedCell
  | (b, v) :: m, a => if b = a then v else if a < b then unlistedCell else memRead m a

/-- A cell as the canonical form lists it: not at all if it holds `unlistedCell`. -/
def listedCell (a : Nat) (v : Byte) (m : Memory) : Memory := if v = unlistedCell then m else (a, v) :: m

/-- Replaces the cell at each address of a rising list by `f` of its address and old value, in one pass. -/
def memUpdate (f : Nat → Byte → Byte) : List Nat → Memory → Memory
  | [], m => m
  | a :: as, m =>
    let rest := m.dropWhile fun c => decide (c.1 < a)
    m.takeWhile (fun c => decide (c.1 < a)) ++
      listedCell a (f a (memRead rest a)) (memUpdate f as (rest.dropWhile fun c => decide (c.1 ≤ a)))

/-- `MemWrite(FB, a, 1, v)` (R51). -/
def memWrite (m : Memory) (a : Nat) (v : Byte) : Memory := memUpdate (fun _ _ => v) [a] m

/-- A list of cells at strictly rising addresses from `low` up and inside the framebuffer, none equal to `unlistedCell`. -/
def memoryFrom : Nat → Memory → Bool
  | _, [] => true
  | low, (a, v) :: m => decide (low ≤ a) && decide (a < Config.fbCells) && decide (v ≠ unlistedCell) && memoryFrom (a + 1) m

/-- The canonical form: addresses strictly rising and inside the framebuffer, no cell equal to `unlistedCell`. -/
def memoryWf (m : Memory) : Bool := memoryFrom 0 m

/-- `FB[y][x]` (R13). -/
def cell (s : State) (y x : Nat) : Byte := memRead s.fb (cellAddr y x)

/-! ### Drawing -/

/-- Runs the next part of a meaning on the state the first part left. -/
def andThen (o : Host.Outcome State Fault Refusal) (k : State → Host.Outcome State Fault Refusal) :
    Host.Outcome State Fault Refusal :=
  match o with
  | .next s => k s
  | .fault r => .fault r
  | .refused r => .refused r

/-- The memory after every cell of a rectangle is replaced by `f y x` of its old value. (Irreducible so that comparing two
states never computes a memory; `memRead_rectUpdate` says what it does.) -/
@[irreducible] def rectUpdate (q : Rect) (f : Nat → Nat → Byte → Byte) (m : Memory) : Memory :=
  memUpdate (fun a v => f (addrRow a) (addrColumn a) v) (rectAddrs q) m

/-- Replaces every cell of a rectangle by `f y x` of its old value; outside the grid there is no memory (R61). -/
def drawRect (q : Rect) (f : Nat → Nat → Byte → Byte) (s : State) : Host.Outcome State Fault Refusal :=
  if rectInGrid q then .next (s.setFb (rectUpdate q f s.fb))
  else .fault (.outsideFramebuffer q.top q.left)

/-- `FB[y][x] <- zext_8(color)` for every cell of a rectangle. -/
def fillRect (q : Rect) (color : Nibble) (s : State) : Host.Outcome State Fault Refusal :=
  drawRect q (fun _ _ _ => zext8 color) s

/-! ### Diagnostics -/

/-- `raise Diagnostic(kind, code)` (R212): the transaction's diagnostic output (R38), which `reportedDiag` drives on the port,
and the kind's sticky bit; nothing else (R214). -/
def raiseDiag (kind : DiagKind) (code : BitVec 6) (s : State) : State :=
  (s.setStatus (setSticky kind s.status)).setDiag (some { kind := kind, code := code })

/-- The effect of an unimplemented or reserved instruction code (R104, R170). -/
def unknownInstr (code : BitVec 6) (s : State) : State := raiseDiag .unknownInstr code s

/-- `TileOutOfRange` (R144): no cell is written; the code is 6 for TileBlock and 38 for TileBlockXor. -/
def tileOutOfRange (code : BitVec 6) (s : State) : State := raiseDiag .tileOob code s

end Sys2Proof.Machine
end

