-- ==== Sys2Proof/Machine/ColorTable.lean ====
section
/-! DEFINITION. LoadColorTableLow and LoadColorTableHigh (43_color_table.md). -/
namespace Sys2Proof.Machine

/-- LoadColorTableLow (R160): entries 0 to 7. -/
def execLoadColorTableLow (entries : Vector Rgb 8) (s : State) : Host.Outcome State Fault Refusal :=
  .next (s.setCt (loadHalf 0 entries s.ct))

/-- LoadColorTableHigh (R161): entries 8 to 15. -/
def execLoadColorTableHigh (entries : Vector Rgb 8) (s : State) : Host.Outcome State Fault Refusal :=
  .next (s.setCt (loadHalf 8 entries s.ct))

end Sys2Proof.Machine
end

