-- ==== Sys2Proof/Machine/Preset.lean ====
section
/-! DEFINITION. NoOp, MemoryPreset and BorderPreset (41_presets.md). -/
namespace Sys2Proof.Machine

/-- NoOp (R121). -/
def execNop (s : State) : Host.Outcome State Fault Refusal := .next s

/-- MemoryPreset (R122): a nonzero `repeat` has no effect; the block remembers no earlier preset (R123). -/
def execMemoryPreset (color rep : Nibble) (s : State) : Host.Outcome State Fault Refusal :=
  if rep ≠ 0 then .next s else fillRect wholeGrid color s

/-- BorderPreset (R124): the top and the two sides; rows 204 to 215 are not painted (R125). -/
def execBorderPreset (color : Nibble) (s : State) : Host.Outcome State Fault Refusal :=
  andThen (fillRect topBorder color s) fun s1 => andThen (fillRect leftBorder color s1) fun s2 => fillRect rightBorder color s2

end Sys2Proof.Machine
end

