-- ==== Sys2Proof/Machine/Tile.lean ====
section
/-! DEFINITION. TileBlock and TileBlockXor (42_tile_blocks.md). -/
namespace Sys2Proof.Machine

/-- TileBlock (R141): overwrites the 72 cells with the selected colors; a tile outside the grid is R144. -/
def execTileBlock (color0 color1 : Nibble) (row column : Nat) (bitmap : Vector Byte 12) (s : State) :
    Host.Outcome State Fault Refusal :=
  if tileOutside row column then .next (tileOutOfRange 6 s)
  else drawRect (tileRect row column) (fun y x _ => zext8 (sel bitmap (y - row) (x - column) color0 color1)) s

/-- TileBlockXor (R142): exclusive-ors the selected color, zero extended, into each of the 72 cells. -/
def execTileBlockXor (color0 color1 : Nibble) (row column : Nat) (bitmap : Vector Byte 12) (s : State) :
    Host.Outcome State Fault Refusal :=
  if tileOutside row column then .next (tileOutOfRange 38 s)
  else drawRect (tileRect row column) (fun y x v => v ^^^ zext8 (sel bitmap (y - row) (x - column) color0 color1)) s

end Sys2Proof.Machine
end

