-- ==== Sys2Proof/Machine/Unimplemented.lean ====
section
/-! DEFINITION. The records that act as NoOp other than code 0: three documented but unimplemented codes, 54 reserved codes
and the non-graphics record (44_unimplemented.md). -/
namespace Sys2Proof.Machine

/-- ScrollPreset (R170): no scroll is performed; the code is reported. -/
def execScrollPreset (s : State) : Host.Outcome State Fault Refusal := .next (unknownInstr 20 s)

/-- ScrollCopy (R171). -/
def execScrollCopy (s : State) : Host.Outcome State Fault Refusal := .next (unknownInstr 24 s)

/-- DefineTransparentColor (R172): the block has no transparency state. -/
def execDefineTransparentColor (s : State) : Host.Outcome State Fault Refusal := .next (unknownInstr 28 s)

/-- Non-graphics record (R174, C1): NoOp, and nothing is reported whatever its instruction code. -/
def execNonGraphics (s : State) : Host.Outcome State Fault Refusal := .next s

/-! The reserved codes (R173), one definition each. -/

def execReserved3 (s : State) : Host.Outcome State Fault Refusal := .next (unknownInstr 3 s)
def execReserved4 (s : State) : Host.Outcome State Fault Refusal := .next (unknownInstr 4 s)
def execReserved5 (s : State) : Host.Outcome State Fault Refusal := .next (unknownInstr 5 s)
def execReserved7 (s : State) : Host.Outcome State Fault Refusal := .next (unknownInstr 7 s)
def execReserved8 (s : State) : Host.Outcome State Fault Refusal := .next (unknownInstr 8 s)
def execReserved9 (s : State) : Host.Outcome State Fault Refusal := .next (unknownInstr 9 s)
def execReserved10 (s : State) : Host.Outcome State Fault Refusal := .next (unknownInstr 10 s)
def execReserved11 (s : State) : Host.Outcome State Fault Refusal := .next (unknownInstr 11 s)
def execReserved12 (s : State) : Host.Outcome State Fault Refusal := .next (unknownInstr 12 s)
def execReserved13 (s : State) : Host.Outcome State Fault Refusal := .next (unknownInstr 13 s)
def execReserved14 (s : State) : Host.Outcome State Fault Refusal := .next (unknownInstr 14 s)
def execReserved15 (s : State) : Host.Outcome State Fault Refusal := .next (unknownInstr 15 s)
def execReserved16 (s : State) : Host.Outcome State Fault Refusal := .next (unknownInstr 16 s)
def execReserved17 (s : State) : Host.Outcome State Fault Refusal := .next (unknownInstr 17 s)
def execReserved18 (s : State) : Host.Outcome State Fault Refusal := .next (unknownInstr 18 s)
def execReserved19 (s : State) : Host.Outcome State Fault Refusal := .next (unknownInstr 19 s)
def execReserved21 (s : State) : Host.Outcome State Fault Refusal := .next (unknownInstr 21 s)
def execReserved22 (s : State) : Host.Outcome State Fault Refusal := .next (unknownInstr 22 s)
def execReserved23 (s : State) : Host.Outcome State Fault Refusal := .next (unknownInstr 23 s)
def execReserved25 (s : State) : Host.Outcome State Fault Refusal := .next (unknownInstr 25 s)
def execReserved26 (s : State) : Host.Outcome State Fault Refusal := .next (unknownInstr 26 s)
def execReserved27 (s : State) : Host.Outcome State Fault Refusal := .next (unknownInstr 27 s)
def execReserved29 (s : State) : Host.Outcome State Fault Refusal := .next (unknownInstr 29 s)
def execReserved32 (s : State) : Host.Outcome State Fault Refusal := .next (unknownInstr 32 s)
def execReserved33 (s : State) : Host.Outcome State Fault Refusal := .next (unknownInstr 33 s)
def execReserved34 (s : State) : Host.Outcome State Fault Refusal := .next (unknownInstr 34 s)
def execReserved35 (s : State) : Host.Outcome State Fault Refusal := .next (unknownInstr 35 s)
def execReserved36 (s : State) : Host.Outcome State Fault Refusal := .next (unknownInstr 36 s)
def execReserved37 (s : State) : Host.Outcome State Fault Refusal := .next (unknownInstr 37 s)
def execReserved39 (s : State) : Host.Outcome State Fault Refusal := .next (unknownInstr 39 s)
def execReserved40 (s : State) : Host.Outcome State Fault Refusal := .next (unknownInstr 40 s)
def execReserved41 (s : State) : Host.Outcome State Fault Refusal := .next (unknownInstr 41 s)
def execReserved42 (s : State) : Host.Outcome State Fault Refusal := .next (unknownInstr 42 s)
def execReserved43 (s : State) : Host.Outcome State Fault Refusal := .next (unknownInstr 43 s)
def execReserved44 (s : State) : Host.Outcome State Fault Refusal := .next (unknownInstr 44 s)
def execReserved45 (s : State) : Host.Outcome State Fault Refusal := .next (unknownInstr 45 s)
def execReserved46 (s : State) : Host.Outcome State Fault Refusal := .next (unknownInstr 46 s)
def execReserved47 (s : State) : Host.Outcome State Fault Refusal := .next (unknownInstr 47 s)
def execReserved48 (s : State) : Host.Outcome State Fault Refusal := .next (unknownInstr 48 s)
def execReserved49 (s : State) : Host.Outcome State Fault Refusal := .next (unknownInstr 49 s)
def execReserved50 (s : State) : Host.Outcome State Fault Refusal := .next (unknownInstr 50 s)
def execReserved51 (s : State) : Host.Outcome State Fault Refusal := .next (unknownInstr 51 s)
def execReserved52 (s : State) : Host.Outcome State Fault Refusal := .next (unknownInstr 52 s)
def execReserved53 (s : State) : Host.Outcome State Fault Refusal := .next (unknownInstr 53 s)
def execReserved54 (s : State) : Host.Outcome State Fault Refusal := .next (unknownInstr 54 s)
def execReserved55 (s : State) : Host.Outcome State Fault Refusal := .next (unknownInstr 55 s)
def execReserved56 (s : State) : Host.Outcome State Fault Refusal := .next (unknownInstr 56 s)
def execReserved57 (s : State) : Host.Outcome State Fault Refusal := .next (unknownInstr 57 s)
def execReserved58 (s : State) : Host.Outcome State Fault Refusal := .next (unknownInstr 58 s)
def execReserved59 (s : State) : Host.Outcome State Fault Refusal := .next (unknownInstr 59 s)
def execReserved60 (s : State) : Host.Outcome State Fault Refusal := .next (unknownInstr 60 s)
def execReserved61 (s : State) : Host.Outcome State Fault Refusal := .next (unknownInstr 61 s)
def execReserved62 (s : State) : Host.Outcome State Fault Refusal := .next (unknownInstr 62 s)
def execReserved63 (s : State) : Host.Outcome State Fault Refusal := .next (unknownInstr 63 s)

end Sys2Proof.Machine
end

