-- ==== Sys2Proof/Machine/Dispatch.lean ====
section
/-! DEFINITION. The applicator's dispatch (R120): one arm per instruction, no default arm. -/
namespace Sys2Proof.Machine

def exec (i : Instr) (s : State) : Host.Outcome State Fault Refusal :=
  match i with
  | .nop => Sys2Proof.Machine.execNop s
  | .memoryPreset color rep => Sys2Proof.Machine.execMemoryPreset color rep s
  | .borderPreset color => Sys2Proof.Machine.execBorderPreset color s
  | .reserved3 => Sys2Proof.Machine.execReserved3 s
  | .reserved4 => Sys2Proof.Machine.execReserved4 s
  | .reserved5 => Sys2Proof.Machine.execReserved5 s
  | .tileBlock color0 color1 row column bitmap => Sys2Proof.Machine.execTileBlock color0 color1 row column bitmap s
  | .reserved7 => Sys2Proof.Machine.execReserved7 s
  | .reserved8 => Sys2Proof.Machine.execReserved8 s
  | .reserved9 => Sys2Proof.Machine.execReserved9 s
  | .reserved10 => Sys2Proof.Machine.execReserved10 s
  | .reserved11 => Sys2Proof.Machine.execReserved11 s
  | .reserved12 => Sys2Proof.Machine.execReserved12 s
  | .reserved13 => Sys2Proof.Machine.execReserved13 s
  | .reserved14 => Sys2Proof.Machine.execReserved14 s
  | .reserved15 => Sys2Proof.Machine.execReserved15 s
  | .reserved16 => Sys2Proof.Machine.execReserved16 s
  | .reserved17 => Sys2Proof.Machine.execReserved17 s
  | .reserved18 => Sys2Proof.Machine.execReserved18 s
  | .reserved19 => Sys2Proof.Machine.execReserved19 s
  | .scrollPreset => Sys2Proof.Machine.execScrollPreset s
  | .reserved21 => Sys2Proof.Machine.execReserved21 s
  | .reserved22 => Sys2Proof.Machine.execReserved22 s
  | .reserved23 => Sys2Proof.Machine.execReserved23 s
  | .scrollCopy => Sys2Proof.Machine.execScrollCopy s
  | .reserved25 => Sys2Proof.Machine.execReserved25 s
  | .reserved26 => Sys2Proof.Machine.execReserved26 s
  | .reserved27 => Sys2Proof.Machine.execReserved27 s
  | .defineTransparentColor => Sys2Proof.Machine.execDefineTransparentColor s
  | .reserved29 => Sys2Proof.Machine.execReserved29 s
  | .loadColorTableLow entries => Sys2Proof.Machine.execLoadColorTableLow entries s
  | .loadColorTableHigh entries => Sys2Proof.Machine.execLoadColorTableHigh entries s
  | .reserved32 => Sys2Proof.Machine.execReserved32 s
  | .reserved33 => Sys2Proof.Machine.execReserved33 s
  | .reserved34 => Sys2Proof.Machine.execReserved34 s
  | .reserved35 => Sys2Proof.Machine.execReserved35 s
  | .reserved36 => Sys2Proof.Machine.execReserved36 s
  | .reserved37 => Sys2Proof.Machine.execReserved37 s
  | .tileBlockXor color0 color1 row column bitmap => Sys2Proof.Machine.execTileBlockXor color0 color1 row column bitmap s
  | .reserved39 => Sys2Proof.Machine.execReserved39 s
  | .reserved40 => Sys2Proof.Machine.execReserved40 s
  | .reserved41 => Sys2Proof.Machine.execReserved41 s
  | .reserved42 => Sys2Proof.Machine.execReserved42 s
  | .reserved43 => Sys2Proof.Machine.execReserved43 s
  | .reserved44 => Sys2Proof.Machine.execReserved44 s
  | .reserved45 => Sys2Proof.Machine.execReserved45 s
  | .reserved46 => Sys2Proof.Machine.execReserved46 s
  | .reserved47 => Sys2Proof.Machine.execReserved47 s
  | .reserved48 => Sys2Proof.Machine.execReserved48 s
  | .reserved49 => Sys2Proof.Machine.execReserved49 s
  | .reserved50 => Sys2Proof.Machine.execReserved50 s
  | .reserved51 => Sys2Proof.Machine.execReserved51 s
  | .reserved52 => Sys2Proof.Machine.execReserved52 s
  | .reserved53 => Sys2Proof.Machine.execReserved53 s
  | .reserved54 => Sys2Proof.Machine.execReserved54 s
  | .reserved55 => Sys2Proof.Machine.execReserved55 s
  | .reserved56 => Sys2Proof.Machine.execReserved56 s
  | .reserved57 => Sys2Proof.Machine.execReserved57 s
  | .reserved58 => Sys2Proof.Machine.execReserved58 s
  | .reserved59 => Sys2Proof.Machine.execReserved59 s
  | .reserved60 => Sys2Proof.Machine.execReserved60 s
  | .reserved61 => Sys2Proof.Machine.execReserved61 s
  | .reserved62 => Sys2Proof.Machine.execReserved62 s
  | .reserved63 => Sys2Proof.Machine.execReserved63 s
  | .nonGraphics => Sys2Proof.Machine.execNonGraphics s

end Sys2Proof.Machine
end

