-- ==== Sys2Proof/Machine/Compositor.lean ====
section
/-! DEFINITION. The pixel compositor (45_compositor.md): the render request's legality, the three stages, the output byte
sequence, and the words of the output port. Render is a request of the host and no record, so no arm of `exec` calls this. -/
namespace Sys2Proof.Machine

/-- A scale a render request may carry: 1 to `max` (R9, R181). -/
def scaleWithin (max scale : Nat) : Bool := decide (1 ≤ scale) && decide (scale ≤ max)

/-- A legal scale of this implementation, whose `MAX_SCALE` is open (log 6). -/
def scaleLegal (scale : Nat) : Bool := scaleWithin Config.maxScale scale

/-- `i = min(v, 15)` (R182, D7). -/
def clampIndex (v : Byte) : Fin 16 := ⟨min v.toNat 15, by omega⟩

/-- `Lut` (R182): the stored color; the stored alpha is not looked at. -/
def lut (ct : Vector ColorEntry 16) (v : Byte) : Rgb :=
  { r := ct[clampIndex v].r, g := ct[clampIndex v].g, b := ct[clampIndex v].b }

/-- `Quad` (R183): the four bytes of an output pixel, alpha always 255 and always last. -/
def quad (e : Rgb) : ByteOrder → Vector Byte 4
  | .rgb => #v[e.r, e.g, e.b, 255]
  | .bgr => #v[e.b, e.g, e.r, 255]

/-- Output pixel (`outRow`, `outColumn`) shows source cell `FB[outRow / scale][outColumn / scale]` (R184). -/
def outPixel (s : State) (scale : Nat) (order : ByteOrder) (outRow outColumn : Nat) : Vector Byte 4 :=
  quad (lut s.ct (cell s (outRow / scale) (outColumn / scale))) order

/-- The bytes of one output row, left to right (R185). -/
def outRowBytes (s : State) (scale : Nat) (order : ByteOrder) (outRow : Nat) : List Byte :=
  (List.range (300 * scale)).flatMap fun outColumn => (outPixel s scale order outRow outColumn).toList

/-- `Composite` (R185): the whole output byte sequence `OUT`, rows top to bottom. -/
def composite (s : State) (scale : Nat) (order : ByteOrder) : List Byte :=
  (List.range (216 * scale)).flatMap (outRowBytes s scale order)

/-- `n` cells from address `a`, in one pass over a canonical list. -/
def cellsFrom : Nat → Nat → Memory → List Byte
  | 0, _, _ => []
  | n + 1, a, [] => unlistedCell :: cellsFrom n (a + 1) []
  | n + 1, a, (b, v) :: m =>
    if b = a then v :: cellsFrom n (a + 1) m else unlistedCell :: cellsFrom n (a + 1) ((b, v) :: m)

/-- One source row scaled horizontally: each cell's pixel `scale` times. -/
def scaledRow (s : State) (scale : Nat) (order : ByteOrder) (row : List Byte) : List Byte :=
  row.flatMap fun v => (List.replicate scale (quad (lut s.ct v) order).toList).flatten

/-- The output the way the source computes it (R185): each source row is scaled once and its bytes copied `scale - 1` times
more. -/
def compositeByRows (s : State) (scale : Nat) (order : ByteOrder) : List Byte :=
  let cells := cellsFrom Config.fbCells 0 s.fb
  (List.range 216).flatMap fun y =>
    (List.replicate scale (scaledRow s scale order ((cells.drop (300 * y)).take 300))).flatten

/-- The number of output words of a render (R34): one per output pixel. -/
def outWords (scale : Nat) : Nat := scale ^ 2 * 64800

/-- The word of an output pixel, its lowest byte in bits 7:0 (R34, R56). -/
def pixelWord (q : Vector Byte 4) : BitVec 32 := q[3] ++ q[2] ++ q[1] ++ q[0]

/-- Output word `p` of a render, in raster order (R34). -/
def outData (s : State) (scale : Nat) (order : ByteOrder) (p : Nat) : BitVec 32 :=
  pixelWord (outPixel s scale order (p / (300 * scale)) (p % (300 * scale)))

/-- `BadScale` (R181): no word; the sticky bit and a diagnostic with the low six bits of the scale. -/
def badScale (scale : Nat) (s : State) : State := raiseDiag .badScale (BitVec.ofNat 6 scale) s

/-- The Render transaction (R180): the state it leaves and `OUT`. -/
def render (scale : Nat) (order : ByteOrder) (s : State) : State × List Byte :=
  if scaleLegal scale then (s, composite s scale order) else (badScale scale s, [])

end Sys2Proof.Machine
end

