-- ==== Sys2Proof/Machine/Ports.lean ====
section
/-! DEFINITION. The ports (10_state.md R31 to R37) and what one rising edge does in each phase, but for applying a record. -/
namespace Sys2Proof.Machine

/-- What the host drives at the next rising edge; nothing when it has announced nothing more (log 2). -/
def nextEdge (s : State) : PortInputs := s.edges.headD .quiet

/-- The state as an edge finds it: the edge's inputs are used up, and the diagnostic of the edge before, which the port has
driven already, is cleared (R35). -/
def sampleEdge (s : State) : State := (s.setEdges s.edges.tail).setDiag none

def phaseIdle : Phase → Bool
  | .idle => true
  | _ => false

/-- `rec_ready = (phase = IDLE) ∧ ¬rst` (R37). -/
def recReady (s : State) (e : PortInputs) : Bool := phaseIdle s.phase && !e.rst

/-- `rnd_ready = (phase = IDLE) ∧ ¬rst ∧ ¬rec_valid` (R37). -/
def rndReady (s : State) (e : PortInputs) : Bool := phaseIdle s.phase && !e.rst && !e.recValid

/-- The word offered on the output port: the next word of the render in progress; none for an illegal scale (R34). -/
def offeredWord (s : State) : Option (BitVec 32) :=
  match s.phase with
  | .render scale order p => if scaleLegal scale then some (outData s scale order p) else none
  | _ => none

/-- Whether the word offered is the render's last (R34). -/
def offersLast (s : State) : Bool :=
  match s.phase with
  | .render scale _ p => scaleLegal scale && decide (p + 1 = outWords scale)
  | _ => false

/-- The instruction of the record being applied. -/
def fetch (rec : Record) : Instr := decode rec

/-- The diagnostic an outcome carries. -/
def outcomeDiag (o : Host.Outcome State Fault Refusal) : Option Diagnostic :=
  match o with
  | .next s => s.diag
  | _ => none

/-- The diagnostic of the transaction that completes at the coming edge. It is driven in the cycle that ends at that edge, the
last of the transaction, so that it belongs to the transaction that raised it (R212), no later reset can drop it, and a reset
at that very edge, which abandons the transaction, finds it not yet driven (R241; the choice of cycle is log 5). -/
def reportedDiag (s : State) : Option Diagnostic :=
  match s.phase with
  | .idle => none
  | .apply rec => outcomeDiag (exec (fetch rec) (sampleEdge s))
  | .render scale _ _ => if scaleLegal scale then none else (badScale scale (sampleEdge s)).diag

/-- The output ports (R31). `out` is `some w` when `out_valid` is 1 with `out_data` = w, `diag` is `some d` when `diag_valid`
is 1 with the two fields of d; while a valid is 0 its data is unspecified, and the model gives none (R35, I4; log 7). -/
structure PortOutputs where
  recReady : Bool
  rndReady : Bool
  out      : Option (BitVec 32)
  outLast  : Bool
  diag     : Option Diagnostic
  status   : BitVec 8
deriving DecidableEq, Repr

/-- The outputs in the cycle that ends at an edge; while `rst` is 1 every ready, valid and last is 0 (R36, R240). -/
def portOutputs (s : State) (e : PortInputs) : PortOutputs :=
  { recReady := recReady s e
    rndReady := rndReady s e
    out := if e.rst then none else offeredWord s
    outLast := !e.rst && offersLast s
    diag := if e.rst then none else reportedDiag s
    status := s.status }

/-- The Reset transaction (R240), whatever is in progress (R241): every piece of the block's state; the host's side stays. -/
def resetBlock (s : State) : State := State.reset.setEdges s.edges

/-- `order = (rnd_order = 0 ? RGB : BGR)` (R33). -/
def orderOf (rndOrder : Bool) : ByteOrder := if rndOrder then .bgr else .rgb

/-- An edge in phase IDLE: a record offered is accepted first, else a render request (R37); the block copies what it
accepts (R32, R33) and with nothing offered holds its state (R225). -/
def acceptEdge (e : PortInputs) (s : State) : State :=
  if recReady s e && e.recValid then s.setPhase (.apply (recordOfData e.recData))
  else if rndReady s e && e.rndValid then s.setPhase (.render e.rndScale (orderOf e.rndOrder) 0)
  else s

/-- An edge in phase RENDER: an illegal scale raises its diagnostic and completes; otherwise the word offered is transferred
when the consumer is ready, and the last one completes the transaction (R34, R37, R181). -/
def renderEdge (e : PortInputs) (scale : Nat) (order : ByteOrder) (p : Nat) (s : State) : State :=
  if scaleLegal scale then
    if e.outReady then
      if p + 1 = outWords scale then s.setPhase .idle else s.setPhase (.render scale order (p + 1))
    else s
  else (badScale scale s).setPhase .idle

/-- Completion of a Record transaction sets the phase to IDLE (R37). -/
def finishRecord (o : Host.Outcome State Fault Refusal) : Host.Outcome State Fault Refusal :=
  andThen o fun s => .next (s.setPhase .idle)

/-- The state whose next edge applies a record: the record is accepted and the host drives nothing at that edge, so that it
is no reset; what it drives later is kept (log 3). -/
def holdRecord (rec : Record) (s : State) : State := (s.setPhase (.apply rec)).setEdges (.quiet :: s.edges)

end Sys2Proof.Machine
end

