-- ==== Sys2Proof/Machine/Step.lean ====
section
/-! DEFINITION. One step: a rising edge at which the block can act (log 1). -/
namespace Sys2Proof.Machine

/-- Reset has priority in every phase (R36, R241); in APPLY the record in progress is decoded and applied as a whole and the
transaction completes (R38, R58); the other two phases are `acceptEdge` and `renderEdge`. -/
def step (s : State) : Host.Outcome State Fault Refusal :=
  if (nextEdge s).rst then .next (resetBlock (sampleEdge s))
  else
    match s.phase with
    | .idle => .next (acceptEdge (nextEdge s) (sampleEdge s))
    | .apply rec => finishRecord (exec (fetch rec) (sampleEdge s))
    | .render scale order p => .next (renderEdge (nextEdge s) scale order p (sampleEdge s))

/-- `s` with the record of a table word accepted, so that the very next step decodes and applies it (log 3). -/
def State.withFetchWord (s : State) (nbits w : Nat) : State := holdRecord (recordOfTableWord nbits w) s

end Sys2Proof.Machine
end

