-- ==== Sys2Proof/Machine/Bus.lean ====
section
/-! DEFINITION. The decoded-instruction bus between decoder and applicator (R83) and the applicator that reads it, with the
arm for the unknown tag (R120, R126). No step goes through the bus: `exec` applies the decoded instruction itself. -/
namespace Sys2Proof.Machine

/-- The bus: a fixed-width image of a decoded instruction (R83). -/
structure Bus where
  tag     : BitVec 3
  color0  : BitVec 4
  color1  : BitVec 4
  rep     : BitVec 4
  row     : BitVec 9
  column  : BitVec 9
  bitmap  : BitVec 96
  entries : BitVec 192
deriving DecidableEq, Repr

/-- The bus of NoOp: fields that a tag does not use are 0. -/
def idleBus : Bus :=
  { tag := 0, color0 := 0, color1 := 0, rep := 0, row := 0, column := 0, bitmap := 0, entries := 0 }

/-- `bitmap[i]` at bits `8i+7 : 8i`. -/
def packBitmap (bm : Vector Byte 12) : BitVec 96 :=
  bm[11] ++ bm[10] ++ bm[9] ++ bm[8] ++ bm[7] ++ bm[6] ++ bm[5] ++ bm[4] ++ bm[3] ++ bm[2] ++ bm[1] ++ bm[0]

def busBitmap (v : BitVec 96) : Vector Byte 12 := Vector.ofFn fun i => v.extractLsb' (8 * i.val) 8

/-- An entry's 24 bits, `r` in the top byte. -/
def rgbBits (e : Rgb) : BitVec 24 := e.r ++ e.g ++ e.b

def rgbOfBits (v : BitVec 24) : Rgb :=
  { r := v.extractLsb' 16 8, g := v.extractLsb' 8 8, b := v.extractLsb' 0 8 }

/-- Entry `k` at bits `24k+23 : 24k`. -/
def packEntries (es : Vector Rgb 8) : BitVec 192 :=
  rgbBits es[7] ++ rgbBits es[6] ++ rgbBits es[5] ++ rgbBits es[4] ++ rgbBits es[3] ++ rgbBits es[2] ++ rgbBits es[1] ++
    rgbBits es[0]

def busEntries (v : BitVec 192) : Vector Rgb 8 := Vector.ofFn fun k => rgbOfBits (v.extractLsb' (24 * k.val) 24)

def tileBus (tag : BitVec 3) (color0 color1 : Nibble) (row column : Nat) (bm : Vector Byte 12) : Bus :=
  { idleBus with
    tag := tag, color0 := color0, color1 := color1, row := BitVec.ofNat 9 row, column := BitVec.ofNat 9 column,
    bitmap := packBitmap bm }

/-- What the decoder puts on the bus (R83): NoOp for every unimplemented, reserved and non-graphics record. -/
def busOf : Instr → Bus
  | .memoryPreset color rep => { idleBus with tag := 1, color0 := color, rep := rep }
  | .borderPreset color => { idleBus with tag := 2, color0 := color }
  | .tileBlock color0 color1 row column bitmap => tileBus 3 color0 color1 row column bitmap
  | .tileBlockXor color0 color1 row column bitmap => tileBus 4 color0 color1 row column bitmap
  | .loadColorTableLow entries => { idleBus with tag := 5, entries := packEntries entries }
  | .loadColorTableHigh entries => { idleBus with tag := 6, entries := packEntries entries }
  | _ => idleBus

/-- The applicator on bus tag 7 (R126): the diagnostic with code 7 and its sticky bit; `FB` and `CT` are not touched. -/
def applyUnknownTag (s : State) : Host.Outcome State Fault Refusal := .next (raiseDiag .unknownTag 7 s)

/-- `Apply` by tag (R120). -/
def applyBus (b : Bus) (s : State) : Host.Outcome State Fault Refusal :=
  match b.tag.toNat with
  | 0 => execNop s
  | 1 => execMemoryPreset b.color0 b.rep s
  | 2 => execBorderPreset b.color0 s
  | 3 => execTileBlock b.color0 b.color1 b.row.toNat b.column.toNat (busBitmap b.bitmap) s
  | 4 => execTileBlockXor b.color0 b.color1 b.row.toNat b.column.toNat (busBitmap b.bitmap) s
  | 5 => execLoadColorTableLow (busEntries b.entries) s
  | 6 => execLoadColorTableHigh (busEntries b.entries) s
  | _ => applyUnknownTag s

/-- Whether the decoder reports a record's instruction code: command 9 and a code outside 0, 1, 2, 6, 30, 31, 38 (R104). -/
def codeReported (rec : Record) : Bool :=
  commandCode rec == Config.cdgCommand && !([0, 1, 2, 6, 30, 31, 38].contains (instrCode rec).toNat)

/-- The decoder's diagnostic of a record, raised before the applicator runs (R104, R121). -/
def decoderReport (rec : Record) (s : State) : State :=
  if codeReported rec then raiseDiag .unknownInstr (instrCode rec) s else s

/-- `Record(rec)` as R38 writes it: decode, report, put the instruction on the bus, apply. -/
def recordOverBus (rec : Record) (s : State) : Host.Outcome State Fault Refusal :=
  applyBus (busOf (decode rec)) (decoderReport rec s)

end Sys2Proof.Machine
end

