-- ==== Sys2Proof/Machine/Run.lean ====
section
/-! DEFINITION. The three transactions as functions of the state (R14, R38), and runs and what a host observes of them
(R250): once in transactions, once edge by edge at the ports. -/
namespace Sys2Proof.Machine

/-- A transaction with its inputs (R38). -/
inductive Transaction where
  | reset
  | record (rec : Record)
  | render (scale : Nat) (order : ByteOrder)
deriving DecidableEq, Repr

/-- A transaction's effect: the state it leaves, the diagnostic it raises if any being in `diag`, and its `OUT` (R38). -/
def perform (t : Transaction) (s : State) : Host.Outcome (State × List Byte) Fault Refusal :=
  match t with
  | .reset => .next (resetBlock s, [])
  | .record rec =>
    match exec (decode rec) (s.setDiag none) with
    | .next s' => .next (s', [])
    | .fault r => .fault r
    | .refused r => .refused r
  | .render scale order => .next (render scale order (s.setDiag none))

/-- What a host has seen: the `OUT` of every completed render, the bytes of the render in progress, and the diagnostics, each
in order. -/
structure Seen where
  outs    : List (List Byte)
  current : List Byte
  diags   : List Diagnostic
deriving DecidableEq, Repr

def Seen.nothing : Seen := { outs := [], current := [], diags := [] }

/-- What one transaction adds: a legal render completes with its `OUT`; a diagnostic is seen once (R212). DESIGN CHOICE (log 17):
a render with an illegal scale, which completes (R37) with `OUT` empty (R181), adds no empty sequence to the `OUT` sequences
that R250 observes, since it hands over no word by which a host could see one. DESIGN CHOICE (log 18): a Reset adds nothing and
takes nothing away, so what was seen in earlier sessions stays; R250 has a reset only at a run's start. -/
def seeTransaction (t : Transaction) (s' : State) (out : List Byte) (w : Seen) : Seen :=
  { outs := match t with
      | .render scale _ => if scaleLegal scale then w.outs ++ [out] else w.outs
      | _ => w.outs
    current := w.current
    diags := w.diags ++ s'.diag.toList }

/-- A sequence of transactions from a state, with what the host sees of them. -/
def performAll : List Transaction → State → Seen → Host.Outcome (State × Seen) Fault Refusal
  | [], s, w => .next (s, w)
  | t :: ts, s, w =>
    match perform t s with
    | .next (s', out) => performAll ts s' (seeTransaction t s' out w)
    | .fault r => .fault r
    | .refused r => .refused r

/-- The bytes of an output word, lowest offset first (R34). -/
def wordBytes (v : BitVec 32) : List Byte :=
  [v.extractLsb' 0 8, v.extractLsb' 8 8, v.extractLsb' 16 8, v.extractLsb' 24 8]

/-- A transferred word added to the render in progress; the last word completes it (R34). -/
def seeWord (v : BitVec 32) (last : Bool) (w : Seen) : Seen :=
  if last then { w with outs := w.outs ++ [w.current ++ wordBytes v], current := [] }
  else { w with current := w.current ++ wordBytes v }

/-- What a host that samples every port at an edge sees there: the diagnostic pulse, the word transferred; a reset discards
the render it cuts short (R241, R247, R252), and keeps what was seen before it (log 18). No word is transferred for an illegal scale, so such a render adds no `OUT`
(log 17). -/
def seeEdge (s : State) (w : Seen) : Seen :=
  let e := nextEdge s
  let o := portOutputs s e
  let w1 := { w with diags := w.diags ++ o.diag.toList }
  if e.rst then { w1 with current := [] }
  else
    match o.out with
    | some v => if e.outReady then seeWord v o.outLast w1 else w1
    | none => w1

/-- `n` edges from a state, with what the host sees at them. -/
def watch : Nat → State → Seen → Host.Outcome (State × Seen) Fault Refusal
  | 0, s, w => .next (s, w)
  | n + 1, s, w =>
    match step s with
    | .next s' => watch n s' (seeEdge s w)
    | .fault r => .fault r
    | .refused r => .refused r

/-- The observation of a run (R250): the completed `OUT` sequences, the diagnostics in order, and the final `STATUS`. Over a
sequence with a Reset in its middle, the first two are of all its sessions and `STATUS` is of the last (log 18). -/
structure Observation where
  outs   : List (List Byte)
  diags  : List Diagnostic
  status : BitVec 8
deriving DecidableEq, Repr

def observation (s : State) (w : Seen) : Observation := { outs := w.outs, diags := w.diags, status := s.status }

/-- An edge at which the host asserts `rst`. -/
def resetEdge : PortInputs := { PortInputs.quiet with rst := true }

/-- An edge at which the host offers a record's bits. -/
def recordEdge (data : BitVec 192) : PortInputs := { PortInputs.quiet with recValid := true, recData := data }

/-- An edge at which the host requests a render. -/
def renderRequestEdge (scale : Nat) (order : ByteOrder) : PortInputs :=
  { PortInputs.quiet with rndValid := true, rndScale := scale, rndOrder := decide (order = .bgr) }

/-- An edge at which the consumer takes a word. -/
def takeEdge : PortInputs := { PortInputs.quiet with outReady := true }

/-- The edge accepts a record when the block is idle (R32, R37); what else the host drives there does not matter. -/
def offersRecord (rec : Record) (e : PortInputs) : Prop := e.rst = false ∧ e.recValid = true ∧ recordOfData e.recData = rec

/-- The edge accepts a render request when the block is idle: no record is offered beside it (R33, R37). -/
def requestsRender (scale : Nat) (order : ByteOrder) (e : PortInputs) : Prop :=
  e.rst = false ∧ e.recValid = false ∧ e.rndValid = true ∧ e.rndScale = scale ∧ orderOf e.rndOrder = order

/-- At no edge the host asserts `rst`, and at `n` of them it is ready for a word; at the others it stalls (R34). -/
def takesWords (n : Nat) (es : List PortInputs) : Prop := (∀ e ∈ es, e.rst = false) ∧ es.countP (·.outReady) = n

/-- `Carried ts es`: driving the edges `es` from an idle block carries out exactly the transactions `ts` and ends idle. The host
is free in everything R251 lets it do: to wait, to stall, to offer anything while the block is busy, and to reset at any edge,
which abandons the transaction in progress (R241). The number of edges that a record and an illegal request take is the
model's granularity (log 1). -/
inductive Carried : List Transaction → List PortInputs → Prop where
  | done : Carried [] []
  | wait {ts es e} : e.rst = false → e.recValid = false → e.rndValid = false → Carried ts es → Carried ts (e :: es)
  | reset {ts es e} : e.rst = true → Carried ts es → Carried (.reset :: ts) (e :: es)
  | record {ts es rec e e'} : offersRecord rec e → e'.rst = false → Carried ts es → Carried (.record rec :: ts) (e :: e' :: es)
  | recordCut {ts es rec e e'} : offersRecord rec e → e'.rst = true → Carried ts es → Carried (.reset :: ts) (e :: e' :: es)
  | render {ts es scale order e busy n last} : requestsRender scale order e → scaleLegal scale = true →
      takesWords n busy → n + 1 = outWords scale → last.rst = false → last.outReady = true → Carried ts es →
      Carried (.render scale order :: ts) (e :: (busy ++ last :: es))
  | renderCut {ts es scale order e busy n e'} : requestsRender scale order e → scaleLegal scale = true →
      takesWords n busy → n < outWords scale → e'.rst = true → Carried ts es →
      Carried (.reset :: ts) (e :: (busy ++ e' :: es))
  | illegal {ts es scale order e e'} : requestsRender scale order e → scaleLegal scale = false → e'.rst = false →
      Carried ts es → Carried (.render scale order :: ts) (e :: e' :: es)
  | illegalCut {ts es scale order e e'} : requestsRender scale order e → scaleLegal scale = false → e'.rst = true →
      Carried ts es → Carried (.reset :: ts) (e :: e' :: es)

/-- The edges by which a host that never waits carries one transaction out. -/
def edgesOf : Transaction → List PortInputs
  | .reset => [resetEdge]
  | .record rec => [recordEdge (dataOfRecord rec), .quiet]
  | .render scale order =>
    renderRequestEdge scale order ::
      (if scaleLegal scale then List.replicate (outWords scale) takeEdge else [PortInputs.quiet])

end Sys2Proof.Machine
end

