-- ==== Sys2Proof/Safety.lean ====
section
/-! DEFINITION. What counts as a safe run: the classes of diagnostics (R226), the host's duties (R252), and the invariant of
the block's reachable states (R26, R29, R30). -/
namespace Sys2Proof.Machine

/-- How a model classifies a diagnostic (R226). -/
inductive DiagClass where
  /-- The run goes on and nothing is wrong. -/
  | advisory
  /-- The decoder would be broken. -/
  | fault
  /-- The hardware's result is R144; the reference software's is not known. -/
  | referenceUnknown
  /-- The host broke its duty of R252. -/
  | hostBreach
deriving DecidableEq, Repr

/-- R226's table. The block's own effect of each kind is modelled in every case (log 8). -/
def diagClass : DiagKind → DiagClass
  | .unknownInstr => .advisory
  | .unknownTag => .fault
  | .tileOob => .referenceUnknown
  | .badScale => .hostBreach

/-- The sticky bits show nothing but advisory events: every kind set in `STATUS` since reset is advisory. -/
def cleanStatus (status : BitVec 8) : Bool :=
  [DiagKind.unknownInstr, .unknownTag, .tileOob, .badScale].all fun k =>
    !stickySet k status || decide (diagClass k = .advisory)

/-- The host's duty at an edge: a render request carries a scale in 1..MAX_SCALE (R252). -/
def hostDuty (e : PortInputs) : Bool := !e.rndValid || scaleLegal e.rndScale

/-- A value the `SCALE_W` wires can carry (R31). -/
def scaleFits (scale : Nat) : Bool := decide (scale < 2 ^ Config.scaleWidth)

/-- A channel that a load can store (R29). -/
def channelReachable (c : Byte) : Bool := c.toNat % 17 == 0

/-- A color table entry that a reachable state can hold (R29). -/
def entryReachable (e : ColorEntry) : Bool := channelReachable e.r && channelReachable e.g && channelReachable e.b

/-- The invariant of the states that a run reaches. -/
structure Inv (s : State) : Prop where
  /-- The framebuffer's list is in canonical form. -/
  memory : memoryWf s.fb = true
  /-- Every cell holds a value in 0..15 (R26). -/
  cells : ∀ y x, (cell s y x).toNat < 16
  /-- Every color channel is a multiple of 17 (R29). -/
  colors : ∀ i : Fin 16, entryReachable s.ct[i] = true
  /-- `STATUS` bits 7:4 read as 0 (R30). -/
  reservedBits : s.status.extractLsb' 4 4 = 0
  /-- `STATUS.UNKNOWN_TAG` is never set (R30, R126). -/
  noUnknownTag : stickySet .unknownTag s.status = false
  /-- No diagnostic of kind UNKNOWN_TAG is ever driven (R126). -/
  noTagDiag : ∀ d, s.diag = some d → d.kind ≠ .unknownTag
  /-- A render in progress with a legal scale has words left (R34). -/
  wordsLeft : ∀ scale order p, s.phase = .render scale order p → scaleLegal scale = true → p < outWords scale
  /-- The scale of a render in progress came over `SCALE_W` wires. -/
  scaleHeld : ∀ scale order p, s.phase = .render scale order p → scaleFits scale = true
  /-- So does every scale the host will drive. -/
  scaleDriven : ∀ e ∈ s.edges, scaleFits e.rndScale = true

end Sys2Proof.Machine
end

