-- ==== Sys2Proof/Certificates/Slice0/Obligations.lean ====
section
/-! DEFINITION. The statements for the provers. Where a statement is about the framebuffer it assumes the canonical form of the
memory list (`memoryWf`), which `StepKeepsInvariant` and `ResetMeetsInvariant` state of every step and of reset. -/

open Sys2Proof Sys2Proof.Machine

/-! ### Decoding and encoding -/

/-- R174: a record whose command code is not 9 is NoOp whatever its instruction code and payload: state unchanged, nothing
reported. -/
def Obligations.NonGraphicsRecordDoesNothing : Prop :=
  ∀ (rec : Record) (s : State), commandCode rec ≠ 9 →
    decode rec = .nonGraphics ∧ exec (decode rec) s = .next s ∧ exec .nonGraphics s = .next s

/-- R77 and R78: which instruction codes 1 and 2 select, and every field as the payload byte under the rule's mask. -/
def Obligations.PresetFieldsAreMaskedPayload : Prop :=
  ∀ rec : Record, commandCode rec = 9 →
    (instrCode rec = 1 → ∃ color rep, decode rec = .memoryPreset color rep ∧
      zext8 color = payload rec 0 &&& 0x0F ∧ zext8 rep = payload rec 1 &&& 0x0F) ∧
    (instrCode rec = 2 → ∃ color, decode rec = .borderPreset color ∧ zext8 color = payload rec 0 &&& 0x0F)

/-- R79: codes 6 and 38 select the tile blocks, with one payload shape. -/
def Obligations.TileFieldsAreMaskedPayload : Prop :=
  ∀ rec : Record, commandCode rec = 9 → instrCode rec = 6 ∨ instrCode rec = 38 →
    ∃ (color0 color1 : Nibble) (bitmap : Vector Byte 12),
      (instrCode rec = 6 → decode rec = .tileBlock color0 color1
        ((payload rec 2 &&& 0x1F).toNat * 12) ((payload rec 3 &&& 0x3F).toNat * 6) bitmap) ∧
      (instrCode rec = 38 → decode rec = .tileBlockXor color0 color1
        ((payload rec 2 &&& 0x1F).toNat * 12) ((payload rec 3 &&& 0x3F).toNat * 6) bitmap) ∧
      zext8 color0 = payload rec 0 &&& 0x0F ∧ zext8 color1 = payload rec 1 &&& 0x0F ∧
      ∀ i : Fin 12, bitmap[i] = payload rec ⟨4 + i.val, by omega⟩

/-- 30_encoding.md R80 and 40_decoder.md R102: each channel of each entry of codes 30 and 31 by its wire bits, expanded. That
byte 0 carries the high half of green is the spec's own reading (D2). -/
def Obligations.ColorEntriesByWireBits : Prop :=
  ∀ rec : Record, commandCode rec = 9 → instrCode rec = 30 ∨ instrCode rec = 31 →
    ∃ entries : Vector Rgb 8,
      (instrCode rec = 30 → decode rec = .loadColorTableLow entries) ∧
      (instrCode rec = 31 → decode rec = .loadColorTableHigh entries) ∧
      ∀ k : Fin 8,
        let byte0 := (payload rec ⟨2 * k.val, by omega⟩).toNat
        let byte1 := (payload rec ⟨2 * k.val + 1, by omega⟩).toNat
        entries[k].r.toNat = (byte0 / 4 % 16) * 255 / 15 ∧
        entries[k].g.toNat = (byte0 % 4 * 4 + byte1 / 16 % 4) * 255 / 15 ∧
        entries[k].b.toNat = (byte1 % 16) * 255 / 15

/-- R103: the scaling law; and its exact value 17 v, which the spec marks as its own inference. -/
def Obligations.ExpandScalesExactly : Prop :=
  ∀ v : Nibble, (expand v).toNat = v.toNat * 255 / 15 ∧ (expand v).toNat = 17 * v.toNat

/-- Every instruction that a record can carry is read back from its encoding, with every operand. -/
def Obligations.DecodeReadsBackEncode : Prop :=
  ∀ i : Instr, i.wf = true → decode (encode i) = i

/-- Encoding what a graphics record decodes to gives back exactly its named bits: decoding loses no named bit, and what it
drops are the bits R71, R72 and R82 call ignored. -/
def Obligations.EncodeRestoresNamedBits : Prop :=
  ∀ rec : Record, commandCode rec = 9 → encode (decode rec) = namedBits rec

/-- R82 (an inference the spec marks as its own): two graphics records decode alike exactly if their named bits agree. -/
def Obligations.OnlyNamedBitsDecide : Prop :=
  ∀ rec rec' : Record, commandCode rec = 9 → commandCode rec' = 9 →
    (decode rec = decode rec' ↔ namedBits rec = namedBits rec')

/-- R100: the decoder answers for every record, with an instruction a record can carry. -/
def Obligations.DecodeIsAlwaysWellFormed : Prop :=
  ∀ rec : Record, (decode rec).wf = true

/-- R73 (the key is the spec's own notation, D17): exactly one row of the opcode table matches every key. -/
def Obligations.OneOpcodeRowPerKey : Prop :=
  ∀ key : BitVec 16, ∃ row ∈ opcodeTable, rowMatches row key = true ∧
    ∀ row' ∈ opcodeTable, rowMatches row' key = true → row' = row

/-- The decoder follows the opcode table: the row that matches a record's key names the instruction decoded. -/
def Obligations.DecodeFollowsOpcodeTable : Prop :=
  ∀ (rec : Record) (row : OpcodeRow), row ∈ opcodeTable → rowMatches row (decodeKey rec) = true →
    mnemonicOf (decode rec) = row.mnemonic

/-- Records written out from the spec's own tables: R108's worked example and vectors DEC-2, DEC-3, DEC-9, DEC-13
and DEC-14, the last with its parity bytes. -/
def Obligations.WorkedRecordsDecode : Prop :=
  decode (makeRecord 0x09 0x06 #v[0xF3, 0xA7, 0x25, 0x4A, 0x21, 0, 0, 0, 0, 0, 0, 0, 0, 0, 0, 0]) =
    .tileBlock 3 7 60 60 #v[0x21, 0, 0, 0, 0, 0, 0, 0, 0, 0, 0, 0] ∧
  decode (makeRecord 0x08 0x01 #v[5, 0, 0, 0, 0, 0, 0, 0, 0, 0, 0, 0, 0, 0, 0, 0]) = .nonGraphics ∧
  decode (makeRecord 0x49 0x81 #v[0x1A, 0x10, 0, 0, 0, 0, 0, 0, 0, 0, 0, 0, 0, 0, 0, 0]) = .memoryPreset 10 0 ∧
  decode (makeRecord 0x09 0x72 emptyPayload) = .reserved50 ∧
  decode (makeRecord 0x09 0x26 #v[0x12, 0x34, 0x25, 0x4A, 0, 0, 0, 0, 0, 0, 0, 0, 0, 0, 0, 0]) =
    .tileBlockXor 2 4 60 60 #v[0, 0, 0, 0, 0, 0, 0, 0, 0, 0, 0, 0] ∧
  decode #v[0xC9, 0x02, 0xFF, 0xFF, 0x3B, 0, 0, 0, 0, 0, 0, 0, 0, 0, 0, 0, 0, 0, 0, 0, 0, 0, 0, 0] = .borderPreset 11

/-- R104: a record is reported as UNKNOWN_INSTR exactly if its command is 9 and its code is none of the seven implemented; it
then sets bit 0 of `STATUS`, carries the code, and (R105) changes nothing else. -/
def Obligations.UnknownCodesReportedExactly : Prop :=
  ∀ (rec : Record) (s : State), s.diag = none → ∃ t, exec (decode rec) s = .next t ∧
    ((∃ d, t.diag = some d ∧ d.kind = .unknownInstr) ↔
      commandCode rec = 9 ∧ instrCode rec ∉ [0, 1, 2, 6, 30, 31, 38]) ∧
    (commandCode rec = 9 → instrCode rec ∉ [0, 1, 2, 6, 30, 31, 38] →
      t = { s with status := s.status ||| 0x01#8, diag := some { kind := .unknownInstr, code := instrCode rec } })

/-! ### Instructions -/

/-- R121: command 9 with code 0 is NoOp, which has no effect. -/
def Obligations.NopLeavesTheState : Prop :=
  (∀ rec : Record, commandCode rec = 9 → instrCode rec = 0 → decode rec = .nop) ∧ ∀ s : State, exec .nop s = .next s

/-- R122: with `repeat` 0 every cell becomes the color, whatever it held, and nothing else changes; with another `repeat`
nothing changes at all. -/
def Obligations.MemoryPresetFillsOnRepeatZero : Prop :=
  (∀ rec : Record, commandCode rec = 9 → instrCode rec = 1 →
    decode rec = .memoryPreset ((payload rec 0).extractLsb' 0 4) ((payload rec 1).extractLsb' 0 4)) ∧
  ∀ (color rep : Nibble) (s : State), memoryWf s.fb = true →
    (rep ≠ 0 → exec (.memoryPreset color rep) s = .next s) ∧
    (rep = 0 → ∃ t, exec (.memoryPreset color rep) s = .next t ∧ t = { s with fb := t.fb } ∧
      ∀ y x, y < 216 → x < 300 → cell t y x = zext8 color)

/-- R124 and R125: rows 0 to 11 and, in rows 12 to 203, columns 0 to 5 and 294 to 299 become the color; every other cell,
rows 204 to 215 among them, and everything else stays. -/
def Obligations.BorderPresetPaintsTopAndSides : Prop :=
  (∀ rec : Record, commandCode rec = 9 → instrCode rec = 2 → decode rec = .borderPreset ((payload rec 0).extractLsb' 0 4)) ∧
  ∀ (color : Nibble) (s : State), memoryWf s.fb = true →
    ∃ t, exec (.borderPreset color) s = .next t ∧ t = { s with fb := t.fb } ∧
      ∀ y x, y < 216 → x < 300 → cell t y x =
        if y ≤ 11 ∨ (12 ≤ y ∧ y ≤ 203 ∧ (x ≤ 5 ∨ 294 ≤ x)) then zext8 color else cell s y x

/-- R141 with R140's bit test: inside the grid the 72 cells take the selected colors, every other cell and everything else
stays. Outside it, the effect R141 refers to is the spec's own decision D6 (R144). -/
def Obligations.TileBlockOverwritesItsTile : Prop :=
  ∀ (color0 color1 : Nibble) (row column : Nat) (bitmap : Vector Byte 12) (s : State), memoryWf s.fb = true →
    (row + 12 ≤ 216 ∧ column + 6 ≤ 300 →
      ∃ t, exec (.tileBlock color0 color1 row column bitmap) s = .next t ∧ t = { s with fb := t.fb } ∧
        (∀ (i : Fin 12) (j : Fin 6), cell t (row + i) (column + j) =
          zext8 (if bitmap[i].getLsbD (5 - j) then color1 else color0)) ∧
        ∀ y x, y < 216 → x < 300 → ¬(row ≤ y ∧ y < row + 12 ∧ column ≤ x ∧ x < column + 6) → cell t y x = cell s y x) ∧
    (row + 12 > 216 ∨ column + 6 > 300 →
      exec (.tileBlock color0 color1 row column bitmap) s =
        .next { s with status := s.status ||| 0x04#8, diag := some { kind := .tileOob, code := 6 } })

/-- R142: as TileBlock, but each cell becomes the exclusive or of its old value and the selected color. Outside the grid, as
there (D6). -/
def Obligations.TileBlockXorCombinesItsTile : Prop :=
  ∀ (color0 color1 : Nibble) (row column : Nat) (bitmap : Vector Byte 12) (s : State), memoryWf s.fb = true →
    (row + 12 ≤ 216 ∧ column + 6 ≤ 300 →
      ∃ t, exec (.tileBlockXor color0 color1 row column bitmap) s = .next t ∧ t = { s with fb := t.fb } ∧
        (∀ (i : Fin 12) (j : Fin 6), cell t (row + i) (column + j) =
          cell s (row + i) (column + j) ^^^ zext8 (if bitmap[i].getLsbD (5 - j) then color1 else color0)) ∧
        ∀ y x, y < 216 → x < 300 → ¬(row ≤ y ∧ y < row + 12 ∧ column ≤ x ∧ x < column + 6) → cell t y x = cell s y x) ∧
    (row + 12 > 216 ∨ column + 6 > 300 →
      exec (.tileBlockXor color0 color1 row column bitmap) s =
        .next { s with status := s.status ||| 0x04#8, diag := some { kind := .tileOob, code := 38 } })

/-- R144 (the spec's own decision D6), from the record: a tile whose row index is 18 or more, or whose column index is 50 or
more, writes no cell and is reported under its instruction code; any other tile is not reported. -/
def Obligations.TileIndexDecidesOutOfRange : Prop :=
  ∀ (rec : Record) (s : State), commandCode rec = 9 → instrCode rec = 6 ∨ instrCode rec = 38 →
    (18 ≤ (payload rec 2 &&& 0x1F).toNat ∨ 50 ≤ (payload rec 3 &&& 0x3F).toNat →
      exec (decode rec) s = .next { s with status := s.status ||| 0x04#8, diag := some { kind := .tileOob, code := instrCode rec } }) ∧
    ((payload rec 2 &&& 0x1F).toNat < 18 ∧ (payload rec 3 &&& 0x3F).toNat < 50 →
      ∃ t, exec (decode rec) s = .next t ∧ t.diag = s.diag ∧ t.status = s.status)

/-- R143 (an inference the spec marks as its own): the same TileBlockXor twice restores `FB` and leaves `CT`, inside the grid
and outside it. -/
def Obligations.TileBlockXorTwiceRestores : Prop :=
  ∀ (color0 color1 : Nibble) (row column : Nat) (bitmap : Vector Byte 12) (s : State), memoryWf s.fb = true →
    ∃ t u, exec (.tileBlockXor color0 color1 row column bitmap) s = .next t ∧
      exec (.tileBlockXor color0 color1 row column bitmap) t = .next u ∧ u.fb = s.fb ∧ u.ct = s.ct

/-- R160: entries 0 to 7 take the eight colors in order, the other eight and everything else stay. Alpha 0xFF is the spec's own
choice (D8). -/
def Obligations.LoadLowWritesEntriesZeroToSeven : Prop :=
  ∀ (entries : Vector Rgb 8) (s : State), ∃ t, exec (.loadColorTableLow entries) s = .next t ∧ t = { s with ct := t.ct } ∧
    (∀ k : Fin 8, t.ct[k.val] = { r := entries[k].r, g := entries[k].g, b := entries[k].b, a := 0xFF }) ∧
    ∀ k : Fin 8, t.ct[8 + k.val] = s.ct[8 + k.val]

/-- R161: the same for entries 8 to 15. -/
def Obligations.LoadHighWritesEntriesEightToFifteen : Prop :=
  ∀ (entries : Vector Rgb 8) (s : State), ∃ t, exec (.loadColorTableHigh entries) s = .next t ∧ t = { s with ct := t.ct } ∧
    (∀ k : Fin 8, t.ct[8 + k.val] = { r := entries[k].r, g := entries[k].g, b := entries[k].b, a := 0xFF }) ∧
    ∀ k : Fin 8, t.ct[k.val] = s.ct[k.val]

/-- R162 (an inference the spec marks as its own): after a low load and a high load the table holds both, and loading low again
leaves the high half as the high load left it. -/
def Obligations.LowAndHighLoadsAreIndependent : Prop :=
  ∀ (low high low' : Vector Rgb 8) (s : State), ∃ t u v,
    exec (.loadColorTableLow low) s = .next t ∧ exec (.loadColorTableHigh high) t = .next u ∧
    exec (.loadColorTableLow low') u = .next v ∧
    (∀ k : Fin 8, u.ct[k.val] = opaqueEntry low[k] ∧ u.ct[8 + k.val] = opaqueEntry high[k]) ∧
    ∀ k : Fin 8, v.ct[k.val] = opaqueEntry low'[k] ∧ v.ct[8 + k.val] = opaqueEntry high[k]

/-- R163 (an inference the spec marks as its own): a load of either half changes no cell, and every cell that holds an index of
the loaded half is shown in the color loaded for it. -/
def Obligations.LoadRecolorsWithoutPixelWrite : Prop :=
  ∀ (entries : Vector Rgb 8) (s : State),
    (∃ t, exec (.loadColorTableLow entries) s = .next t ∧
      ∀ y x, cell t y x = cell s y x ∧ ∀ h : (cell s y x).toNat < 8, lut t.ct (cell t y x) = entries[(cell s y x).toNat]) ∧
    ∃ t, exec (.loadColorTableHigh entries) s = .next t ∧
      ∀ y x, cell t y x = cell s y x ∧ ∀ k : Fin 8, (cell s y x).toNat = 8 + k.val → lut t.ct (cell t y x) = entries[k]

/-- R170, R171, R172: the three documented but unimplemented codes select instructions that change nothing but bit 0 of `STATUS`, and report their
code. -/
def Obligations.UnimplementedCodesOnlyReport : Prop :=
  (∀ rec : Record, commandCode rec = 9 →
    (instrCode rec = 20 → decode rec = .scrollPreset) ∧ (instrCode rec = 24 → decode rec = .scrollCopy) ∧
    (instrCode rec = 28 → decode rec = .defineTransparentColor)) ∧
  ∀ s : State,
    exec .scrollPreset s = .next { s with status := s.status ||| 0x01#8, diag := some { kind := .unknownInstr, code := 20 } } ∧
    exec .scrollCopy s = .next { s with status := s.status ||| 0x01#8, diag := some { kind := .unknownInstr, code := 24 } } ∧
    exec .defineTransparentColor s =
      .next { s with status := s.status ||| 0x01#8, diag := some { kind := .unknownInstr, code := 28 } }

/-- R173: each of the 54 reserved codes selects its instruction, which changes nothing but bit 0 of `STATUS`, and reports its code. -/
def Obligations.ReservedCodesOnlyReport : Prop :=
  ∀ p ∈
    ([(Instr.reserved3, 3), (Instr.reserved4, 4), (Instr.reserved5, 5), (Instr.reserved7, 7), (Instr.reserved8, 8), (Instr.reserved9, 9),
      (Instr.reserved10, 10), (Instr.reserved11, 11), (Instr.reserved12, 12), (Instr.reserved13, 13), (Instr.reserved14, 14), (Instr.reserved15, 15),
      (Instr.reserved16, 16), (Instr.reserved17, 17), (Instr.reserved18, 18), (Instr.reserved19, 19), (Instr.reserved21, 21), (Instr.reserved22, 22)] ++
     [(Instr.reserved23, 23), (Instr.reserved25, 25), (Instr.reserved26, 26), (Instr.reserved27, 27), (Instr.reserved29, 29), (Instr.reserved32, 32),
      (Instr.reserved33, 33), (Instr.reserved34, 34), (Instr.reserved35, 35), (Instr.reserved36, 36), (Instr.reserved37, 37), (Instr.reserved39, 39),
      (Instr.reserved40, 40), (Instr.reserved41, 41), (Instr.reserved42, 42), (Instr.reserved43, 43), (Instr.reserved44, 44), (Instr.reserved45, 45)] ++
     [(Instr.reserved46, 46), (Instr.reserved47, 47), (Instr.reserved48, 48), (Instr.reserved49, 49), (Instr.reserved50, 50), (Instr.reserved51, 51),
      (Instr.reserved52, 52), (Instr.reserved53, 53), (Instr.reserved54, 54), (Instr.reserved55, 55), (Instr.reserved56, 56), (Instr.reserved57, 57),
      (Instr.reserved58, 58), (Instr.reserved59, 59), (Instr.reserved60, 60), (Instr.reserved61, 61), (Instr.reserved62, 62), (Instr.reserved63, 63)] :
      List (Instr × BitVec 6)),
    (∀ rec : Record, commandCode rec = 9 → instrCode rec = p.2 → decode rec = p.1) ∧
    ∀ s : State, exec p.1 s =
      .next { s with status := s.status ||| 0x01#8, diag := some { kind := .unknownInstr, code := p.2 } }

/-- R126 (the code is the spec's own decision D18): the applicator on an unknown tag, whatever else the bus carries. -/
def Obligations.UnknownTagOnlyReports : Prop :=
  ∀ (b : Bus) (s : State), b.tag = 7 →
    applyBus b s = .next { s with status := s.status ||| 0x02#8, diag := some { kind := .unknownTag, code := 7 } }

/-- No instruction the decoder produces reaches the unknown tag (R83, R126). -/
def Obligations.DecoderNeverProducesTagSeven : Prop := ∀ rec : Record, (busOf (decode rec)).tag ≠ 7

/-- R38, R83, R120: decoding, reporting, and applying what the fixed-width bus carries is the same as applying the decoded
instruction. -/
def Obligations.BusApplicatorAgreesWithExec : Prop :=
  ∀ (rec : Record) (s : State), recordOverBus rec s = exec (decode rec) s

/-- R38: every instruction completes, and changes at most `FB`, `CT`, `STATUS` and the diagnostic port. -/
def Obligations.RecordsTouchOnlyTheBlocksState : Prop :=
  ∀ (i : Instr) (s : State), ∃ t, exec i s = .next t ∧
    t = { s with fb := t.fb, ct := t.ct, status := t.status, diag := t.diag }

/-- R214 (an inference the spec marks as its own): an instruction that raises a diagnostic changes nothing but the diagnostic's
own bit of `STATUS`. -/
def Obligations.DiagnosticSkipsTheEffect : Prop :=
  ∀ (i : Instr) (s t : State) (d : Diagnostic), s.diag = none → exec i s = .next t → t.diag = some d →
    t = { s with status := s.status ||| 1#8 <<< (kindValue d.kind).toNat, diag := some d }

/-- R59 (an inference the spec marks as its own): every instruction but TileBlockXor, applied again to the state it left, leaves
that state. -/
def Obligations.AllButXorAreIdempotent : Prop :=
  ∀ (i : Instr) (s : State), memoryWf s.fb = true →
    (∀ color0 color1 row column bitmap, i ≠ .tileBlockXor color0 color1 row column bitmap) →
    ∃ t, exec i s = .next t ∧ exec i t = .next t

/-- R24 and R27: the framebuffer is written by four instructions only and the color table by two. -/
def Obligations.OnlyWritersWrite : Prop :=
  ∀ (i : Instr) (s t : State), exec i s = .next t →
    (t.fb ≠ s.fb → mnemonicOf i ∈ ["MEMORY_PRESET", "BORDER_PRESET", "TILE_BLOCK", "TILE_BLOCK_XOR"]) ∧
    (t.ct ≠ s.ct → mnemonicOf i ∈ ["LOAD_COLOR_TABLE_LOW", "LOAD_COLOR_TABLE_HIGH"])

/-! ### Steps, ports and the interlock -/

/-- The step that applies a record: unless the host asserts `rst`, it is `exec` of the decoded instruction at the state with
the edge's inputs used up and the last diagnostic cleared, and then the phase is IDLE (R37, R38). -/
def Obligations.StepRunsTheDecodedRecord : Prop :=
  ∀ (s : State) (rec : Record) (i : Instr), s.phase = .apply rec → (nextEdge s).rst = false → decode rec = i →
    ∃ t, exec i { s with edges := s.edges.tail, diag := none } = .next t ∧ step s = .next { t with phase := .idle }

/-- The state `withFetchWord` builds runs the instruction of its table word at the very next step, whatever the phase was and
whatever the host announced; the model's own convention (log 3). -/
def Obligations.FetchWordRunsNext : Prop :=
  ∀ (s : State) (nbits w : Nat),
    ∃ t, exec (decode (recordOfTableWord nbits w)) { s with phase := .apply (recordOfTableWord nbits w), diag := none } = .next t ∧
      step (s.withFetchWord nbits w) = .next { t with phase := .idle }

/-- R36, R240, R241 (the spec's own decision D15): `rst` at an edge resets every piece of the block's state, whatever was in
progress. -/
def Obligations.ResetAtAnyEdge : Prop :=
  ∀ s : State, (nextEdge s).rst = true →
    ∃ t, step s = .next t ∧ (∀ y x, cell t y x = 0) ∧ (∀ i : Fin 16, t.ct[i] = { r := 0, g := 0, b := 0, a := 0 }) ∧
      t.status = 0x00 ∧ t.phase = .idle ∧ t.diag = none ∧ t.edges = s.edges.tail ∧ t = { State.reset with edges := s.edges.tail }

/-- R37 (the spec's own decision D14): in IDLE an offered record is accepted, also when a render is requested at the same edge;
a request alone is accepted with its scale and order; with neither the block holds its state. -/
def Obligations.IdleAcceptsRecordFirst : Prop :=
  ∀ s : State, s.phase = .idle → (nextEdge s).rst = false →
    ((nextEdge s).recValid = true → step s =
      .next { s with edges := s.edges.tail, diag := none, phase := .apply (recordOfData (nextEdge s).recData) }) ∧
    ((nextEdge s).recValid = false → (nextEdge s).rndValid = true → step s =
      .next { s with edges := s.edges.tail, diag := none,
                     phase := .render (nextEdge s).rndScale (if (nextEdge s).rndOrder then .bgr else .rgb) 0 }) ∧
    ((nextEdge s).recValid = false → (nextEdge s).rndValid = false → step s =
      .next { s with edges := s.edges.tail, diag := none })

/-- R37: the two ready outputs, in every phase (decision D14). -/
def Obligations.ReadyOnlyWhenIdle : Prop :=
  ∀ (s : State) (e : PortInputs),
    ((portOutputs s e).recReady = true ↔ s.phase = .idle ∧ e.rst = false) ∧
    ((portOutputs s e).rndReady = true ↔ s.phase = .idle ∧ e.rst = false ∧ e.recValid = false)

/-- R36: while `rst` is 1 nothing is ready, valid or last. -/
def Obligations.ResetSilencesThePorts : Prop :=
  ∀ (s : State) (e : PortInputs), e.rst = true →
    (portOutputs s e).recReady = false ∧ (portOutputs s e).rndReady = false ∧ (portOutputs s e).out = none ∧
      (portOutputs s e).outLast = false ∧ (portOutputs s e).diag = none

/-- R32 (the lane order is the spec's own decision D5): the record a host's 192 bits carry. -/
def Obligations.RecordBytesByLane : Prop :=
  ∀ (data : BitVec 192) (k : Fin 24), (recordOfData data)[k] = data.extractLsb' (8 * k) 8

/-- R34 (decision D13): a word of a legal render is held until the consumer takes it; then the next is offered, and the last one
returns the block to IDLE. -/
def Obligations.RenderHandsOverWordByWord : Prop :=
  ∀ (s : State) (scale p : Nat) (order : ByteOrder), s.phase = .render scale order p → 1 ≤ scale → scale ≤ Config.maxScale →
    (nextEdge s).rst = false →
    (portOutputs s (nextEdge s)).out = some (outData s scale order p) ∧
    ((portOutputs s (nextEdge s)).outLast = true ↔ p + 1 = scale ^ 2 * 64800) ∧
    ((nextEdge s).outReady = false → step s = .next { s with edges := s.edges.tail, diag := none }) ∧
    ((nextEdge s).outReady = true → p + 1 ≠ scale ^ 2 * 64800 → step s =
      .next { s with edges := s.edges.tail, diag := none, phase := .render scale order (p + 1) }) ∧
    ((nextEdge s).outReady = true → p + 1 = scale ^ 2 * 64800 → step s =
      .next { s with edges := s.edges.tail, diag := none, phase := .idle })

/-- R181 (the spec's own decision D12): a request with scale 0 or above MAX_SCALE offers no word, sets bit 3 of `STATUS`, reports
the low six bits of the scale, and completes. -/
def Obligations.IllegalScaleOnlyReports : Prop :=
  ∀ (s : State) (scale p : Nat) (order : ByteOrder), s.phase = .render scale order p → scale < 1 ∨ Config.maxScale < scale →
    (nextEdge s).rst = false →
    (portOutputs s (nextEdge s)).out = none ∧
    step s = .next { s with
      edges := s.edges.tail, status := s.status ||| 0x08#8, phase := .idle,
      diag := some { kind := .badScale, code := BitVec.ofNat 6 (scale % 64) } }

/-- R210: no condition stops the block: every state has a next one. -/
def Obligations.NoConditionIsFatal : Prop := ∀ s : State, ∃ t, step s = .next t

/-- R30, R35 and R212 (decisions D10 and D11): the diagnostic of the transaction that completes at an edge is the one on the
port in the cycle that ends there, the transaction's last (log 5), and none follows it in the next cycle; and at an edge
without `rst`, `STATUS` gains exactly the bit of that diagnostic and loses none. So no diagnostic of a completed transaction is
dropped or repeated. -/
def Obligations.StatusGainsOnlyTheRaisedBit : Prop :=
  ∀ s t : State, step s = .next t →
    t.diag = (portOutputs s (nextEdge s)).diag ∧
    (∀ d, t.diag = some d → s.phase ≠ .idle ∧ t.phase = .idle ∧ ∀ e, (portOutputs t e).diag = none) ∧
    ((nextEdge s).rst = false →
      t.status = match t.diag with
        | none => s.status
        | some d => s.status ||| 1#8 <<< (kindValue d.kind).toNat)

/-- R252, R226: while the host requests only legal scales, no edge sets `STATUS.BAD_SCALE`; the premise keeps holding. -/
def Obligations.DutifulHostNeverSetsBadScale : Prop :=
  ∀ s t : State, (∀ e ∈ s.edges, hostDuty e = true) →
    (∀ scale order p, s.phase = .render scale order p → scaleLegal scale = true) →
    stickySet .badScale s.status = false → step s = .next t →
    (∀ e ∈ t.edges, hostDuty e = true) ∧ (∀ scale order p, t.phase = .render scale order p → scaleLegal scale = true) ∧
      stickySet .badScale t.status = false

/-! ### Rendering -/

/-- R180 and R188: a legal render changes no part of the state and its output is the composite. -/
def Obligations.LegalRenderOnlyReads : Prop :=
  ∀ (s : State) (scale : Nat) (order : ByteOrder), 1 ≤ scale → scale ≤ Config.maxScale →
    render scale order s = (s, composite s scale order) ∧
    ∀ p, s.phase = .render scale order p → (nextEdge s).rst = false →
      ∃ t, step s = .next t ∧ t.fb = s.fb ∧ t.ct = s.ct ∧ t.status = s.status

/-- R183: the bytes of an output pixel in both orders. -/
def Obligations.QuadPutsAlphaLast : Prop :=
  ∀ e : Rgb, (quad e .rgb).toList = [e.r, e.g, e.b, 255] ∧ (quad e .bgr).toList = [e.b, e.g, e.r, 255]

/-- R182 (clamping is the spec's own decision D7): a cell below 16 is its own index, any other shows entry 15; the stored alpha
plays no part. -/
def Obligations.LookupClampsToFifteen : Prop :=
  ∀ (ct : Vector ColorEntry 16) (v : Byte),
    (∀ h : v.toNat < 16, lut ct v = { r := ct[v.toNat].r, g := ct[v.toNat].g, b := ct[v.toNat].b }) ∧
    (16 ≤ v.toNat → lut ct v = { r := ct[15].r, g := ct[15].g, b := ct[15].b })

/-- R186: the length of the output. -/
def Obligations.CompositeLength : Prop :=
  ∀ (s : State) (scale : Nat) (order : ByteOrder), (composite s scale order).length = 4 * scale ^ 2 * 300 * 216

/-- R184 and R185: every byte of the output, by the block of output pixels that each source cell fills. -/
def Obligations.SourceCellFillsItsBlock : Prop :=
  ∀ (s : State) (scale : Nat) (order : ByteOrder) (y x dy dx : Nat) (b : Fin 4), y < 216 → x < 300 → dy < scale → dx < scale →
    (composite s scale order)[4 * (300 * scale * (scale * y + dy) + (scale * x + dx)) + b.val]? =
      some (quad (lut s.ct (cell s y x)) order)[b]

/-- R185 and R184's replication sentence: scaling each source row once and copying it gives the same bytes as the definition
pixel by pixel (an inference the spec marks as its own). -/
def Obligations.RowCopiesGiveTheComposite : Prop :=
  ∀ (s : State) (scale : Nat) (order : ByteOrder), memoryWf s.fb = true →
    compositeByRows s scale order = composite s scale order

/-- R187 (an inference the spec marks as its own): at scale 1 the output is the framebuffer in its linear order. -/
def Obligations.ScaleOneIsLinearOrder : Prop :=
  ∀ (s : State) (order : ByteOrder) (a : Nat) (b : Fin 4), a < 64800 →
    (composite s 1 order)[4 * a + b.val]? = some (quad (lut s.ct (memRead s.fb a)) order)[b]

/-- R190: the source's worked example at every source pixel; the offsets it prints for row 1 and column 2; and that no record
can load its color. -/
def Obligations.WorkedRenderExample : Prop :=
  (∀ (s : State) (y x : Nat) (i : Fin 16), y < 216 → x < 300 → (cell s y x).toNat = i.val →
    s.ct[i].r = 10 → s.ct[i].g = 20 → s.ct[i].b = 30 →
    ∀ offset ∈ [4 * (600 * (2 * y) + 2 * x), 4 * (600 * (2 * y) + 2 * x) + 4,
        4 * (600 * (2 * y + 1) + 2 * x), 4 * (600 * (2 * y + 1) + 2 * x) + 4],
      ((composite s 2 .rgb).drop offset).take 4 = [10, 20, 30, 255]) ∧
  (∀ offset, offset ∈ [4816, 4820, 7216, 7220] ↔
    offset ∈ [4 * (600 * (2 * 1) + 2 * 2), 4 * (600 * (2 * 1) + 2 * 2) + 4,
      4 * (600 * (2 * 1 + 1) + 2 * 2), 4 * (600 * (2 * 1 + 1) + 2 * 2) + 4]) ∧
  ∀ v : Nibble, expand v ≠ 10 ∧ expand v ≠ 20 ∧ expand v ≠ 30

/-- The first frame after a reset is black at every scale (R244, R180's example). -/
def Obligations.FirstFrameIsBlack : Prop :=
  ∀ (scale : Nat) (order : ByteOrder),
    composite State.reset scale order = (List.replicate (scale ^ 2 * 64800) [0x00, 0x00, 0x00, 0xFF]).flatten

/-- R34: the words of the output port, in order, are the composite. -/
def Obligations.PortWordsSpellTheComposite : Prop :=
  ∀ (s : State) (scale : Nat) (order : ByteOrder),
    (List.range (outWords scale)).flatMap (fun p => wordBytes (outData s scale order p)) = composite s scale order

/-- R34, R248 (decision D13): however the consumer stalls, after `n` edges without `rst` a render in progress has handed over as
many words as there were edges with `out_ready`, in order, and the block's state is as it was. -/
def Obligations.BackPressureOnlyDelays : Prop :=
  ∀ (n scale p : Nat) (order : ByteOrder) (s : State) (w : Seen), s.phase = .render scale order p → scaleLegal scale = true →
    n ≤ s.edges.length → (∀ e ∈ s.edges.take n, e.rst = false) → s.diag = none →
    p + (s.edges.take n).countP (·.outReady) < outWords scale →
    let taken := (s.edges.take n).countP (·.outReady)
    watch n s w = .next
      ({ s with edges := s.edges.drop n, phase := .render scale order (p + taken) },
       { w with current := w.current ++ (List.range taken).flatMap fun k => wordBytes (outData s scale order (p + k)) })

/-- R34, R180, R250: a render whose words are all taken, however the consumer stalls and whatever the host offers meanwhile,
delivers its composite to the host at the edge that takes the last word, and leaves the block IDLE with its state as it was. -/
def Obligations.RenderDeliversTheComposite : Prop :=
  ∀ (s : State) (w : Seen) (scale n : Nat) (order : ByteOrder) (es : List PortInputs) (last : PortInputs) (rest : List PortInputs),
    s.phase = .render scale order 0 → scaleLegal scale = true → w.current = [] →
    s.edges = es ++ last :: rest → takesWords n es → n + 1 = outWords scale → last.rst = false → last.outReady = true →
    watch (es.length + 1) s w = .next
      ({ s with edges := rest, phase := .idle, diag := none }, { w with outs := w.outs ++ [composite s scale order] })

/-- R38, R63, R250, R251: a host that carries a sequence of transactions out at the ports, edge by edge, in any of the ways that
`Carried` allows (waits, stalls, offers while the block is busy, resets that cut a transaction short), observes exactly what
the three transaction functions say, and the framebuffer and the color table end as they say. The number of edges in APPLY
(log 1), the cycle of a diagnostic (log 5), and what is observed over more than one session (log 18) are the model's choices. -/
def Obligations.PortsRefineTransactions : Prop :=
  ∀ (ts : List Transaction) (s : State) (w : Seen), s.phase = .idle → w.current = [] → Carried ts s.edges →
    ∃ s' w' t v, watch s.edges.length s w = .next (s', w') ∧ performAll ts s w = .next (t, v) ∧
      observation s' w' = observation t v ∧ s'.fb = t.fb ∧ s'.ct = t.ct ∧ s'.phase = .idle ∧ s'.edges = []

/-! ### The invariant -/

/-- The state after reset meets the invariant. -/
def Obligations.ResetMeetsInvariant : Prop := Inv State.reset

/-- Every step keeps the invariant: canonical memory, cells below 16 (R26), loadable colors (R29), the reserved and the
unreachable `STATUS` bits 0 (R30, R126), words left in a render in progress (R34). -/
def Obligations.StepKeepsInvariant : Prop :=
  ∀ s t : State, Inv s → step s = .next t → Inv t
end

