-- ==== Sys2Proof/Laws/Decode.lean ====
section
/-! SUPPORT. What the decoder, the quantizer, the encoder and the packings do to single bytes. -/
namespace Sys2Proof

@[simp] theorem commandCode_makeRecord (c k : Byte) (p : Payload) : commandCode (makeRecord c k p) = c.extractLsb' 0 6 := rfl

@[simp] theorem instrCode_makeRecord (c k : Byte) (p : Payload) : instrCode (makeRecord c k p) = k.extractLsb' 0 6 := rfl

@[simp] theorem payload_makeRecord (c k : Byte) (p : Payload) (i : Fin 16) : payload (makeRecord c k p) i = p[i] := by
  fin_cases i <;> rfl

theorem decode_of_command {rec : Record} (h : commandCode rec = 9) :
    decode rec = decodeGraphics rec (instrCode rec).toNat := by
  rw [decode, if_pos h]

theorem decode_of_not_command {rec : Record} (h : commandCode rec ≠ 9) : decode rec = .nonGraphics := by
  rw [decode, if_neg h]

theorem wfRow_iff {row : Nat} : wfRow row = true ↔ row % 12 = 0 ∧ row ≤ 372 := by simp [wfRow]

theorem wfColumn_iff {column : Nat} : wfColumn column = true ↔ column % 6 = 0 ∧ column ≤ 378 := by simp [wfColumn]

theorem wireChannel_expand (v : Nibble) : wireChannel (expand v) = v := by revert v; decide

theorem expand_wireChannel {c : Byte} (h : wfChannel c = true) : expand (wireChannel c) = c := by revert c; decide

theorem wfChannel_expand (v : Nibble) : wfChannel (expand v) = true := by revert v; decide

theorem wfRgb_quantize (b0 b1 : Byte) : wfRgb (quantize b0 b1) = true := by simp [wfRgb, quantize, wfChannel_expand]

/-- The three channels that two wire bytes carry. -/
theorem quantize_wire (r g b : Nibble) :
    quantize (0#2 ++ r ++ g.extractLsb' 2 2) (0#2 ++ g.extractLsb' 0 2 ++ b) = { r := expand r, g := expand g, b := expand b } := by
  have hr : ∀ r g : Nibble, (0#2 ++ r ++ g.extractLsb' 2 2).extractLsb' 2 4 = r := by decide
  have hg : ∀ r g b : Nibble, (0#2 ++ r ++ g.extractLsb' 2 2).extractLsb' 0 2 ++
      (0#2 ++ g.extractLsb' 0 2 ++ b).extractLsb' 4 2 = g := by decide +kernel
  have hb : ∀ g b : Nibble, (0#2 ++ g.extractLsb' 0 2 ++ b).extractLsb' 0 4 = b := by decide
  simp only [quantize, hr, hg, hb]

theorem quantize_wireBytes {e : Rgb} (h : wfRgb e = true) : quantize (wireByte0 e) (wireByte1 e) = e := by
  simp only [wfRgb, Bool.and_eq_true] at h
  rw [wireByte0, wireByte1, quantize_wire, expand_wireChannel h.1.1, expand_wireChannel h.1.2, expand_wireChannel h.2]

/-- Bits of an appended vector that lie in the lower part. -/
theorem extractLsb'_append_low {m n : Nat} (x : BitVec m) (y : BitVec n) (w lo : Nat) (h : lo + w ≤ n) :
    (x ++ y).extractLsb' lo w = y.extractLsb' lo w := by
  ext i hi
  simp [BitVec.getElem_extractLsb', BitVec.getLsbD_append, show lo + i < n by omega]

/-- Bits of an appended vector that lie in the upper part. -/
theorem extractLsb'_append_high {m n : Nat} (x : BitVec m) (y : BitVec n) (w lo : Nat) (h : n ≤ lo) :
    (x ++ y).extractLsb' lo w = x.extractLsb' (lo - n) w := by
  ext i hi
  simp [BitVec.getElem_extractLsb', BitVec.getLsbD_append, show ¬ lo + i < n by omega, show lo + i - n = lo - n + i by omega]

end Sys2Proof

namespace Sys2Proof.Machine

/-- The bus carries every bitmap byte. -/
theorem busBitmap_packBitmap (bm : Vector Byte 12) : busBitmap (packBitmap bm) = bm := by
  ext i hi : 1
  simp only [busBitmap, Vector.getElem_ofFn, packBitmap]
  interval_cases i <;>
    simp (disch := decide) only [extractLsb'_append_low, extractLsb'_append_high] <;> simp [BitVec.extractLsb'_eq_self]

theorem rgbOfBits_rgbBits (e : Rgb) : rgbOfBits (rgbBits e) = e := by
  simp (disch := decide) only [rgbOfBits, rgbBits, extractLsb'_append_low, extractLsb'_append_high]
  simp [BitVec.extractLsb'_eq_self]

/-- The bus carries every color. -/
theorem busEntries_packEntries (es : Vector Rgb 8) : busEntries (packEntries es) = es := by
  ext i hi : 1
  simp only [busEntries, Vector.getElem_ofFn, packEntries]
  interval_cases i <;>
    simp (disch := decide) only [extractLsb'_append_low, extractLsb'_append_high] <;>
    simp [BitVec.extractLsb'_eq_self, rgbOfBits_rgbBits]

/-- The bits a host puts on the port for a record are read back as that record. -/
theorem recordOfData_dataOfRecord (rec : Record) : recordOfData (dataOfRecord rec) = rec := by
  have key : ∀ (l : List Byte) (k : Nat) (hk : k < l.length), l.length ≤ 24 →
      (l.foldr packByte 0).extractLsb' (8 * k) 8 = l[k] := by
    intro l
    induction l with
    | nil => intro k hk; simp at hk
    | cons b l ih =>
      intro k hk hl
      simp only [List.length_cons] at hk hl
      cases k with
      | zero =>
        ext i hi
        simp [packByte, show i < 192 by omega, hi]
      | succ k =>
        rw [List.getElem_cons_succ, ← ih k (by omega) (by omega)]
        ext i hi
        have hb : b.getLsbD (8 * (k + 1) + i) = false := BitVec.getLsbD_of_ge _ _ (by omega)
        simp [packByte, hb, show 8 * (k + 1) + i < 192 by omega,
          show ¬ 8 * (k + 1) + i < 8 by omega, show 8 * (k + 1) + i - 8 = 8 * k + i by omega,
          BitVec.getLsbD_eq_getElem (show 8 * k + i < 192 by omega)]
  ext k hk : 1
  simp only [recordOfData, Vector.getElem_ofFn, dataOfRecord]
  exact (key rec.toList k (by simpa using hk) (by simp)).trans (by simp)

end Sys2Proof.Machine
end

