-- ==== Sys2Proof/Laws/Memory.lean ====
section
/-! SUPPORT. What reading a cell gives after an update, and that every update keeps the canonical form. -/
namespace Sys2Proof.Machine

/-- Strictly rising addresses: the part of the canonical form that reading relies on. -/
abbrev Rising (m : Memory) : Prop := m.Pairwise fun c d => c.1 < d.1

@[simp] theorem memRead_nil (x : Nat) : memRead [] x = unlistedCell := rfl

theorem memRead_cons (c : Host.Cell) (m : Memory) (x : Nat) :
    memRead (c :: m) x = if c.1 = x then c.2 else if x < c.1 then unlistedCell else memRead m x := rfl

theorem memRead_of_all_gt {m : Memory} {x : Nat} (h : ∀ c ∈ m, x < c.1) : memRead m x = unlistedCell := by
  cases m with
  | nil => rfl
  | cons c m =>
    have := h c (by simp)
    simp [memRead_cons, this, Nat.ne_of_gt this]

theorem memRead_append_of_all_lt {l m : Memory} {x : Nat} (h : ∀ c ∈ l, c.1 < x) :
    memRead (l ++ m) x = memRead m x := by
  induction l with
  | nil => rfl
  | cons c l ih =>
    have hc := h c (by simp)
    simp [memRead_cons, ih fun d hd => h d (by simp [hd]), Nat.ne_of_lt hc, Nat.not_lt_of_gt hc]

theorem memRead_append_of_lt {l m : Memory} {x : Nat} (h : ∀ c ∈ m, x < c.1) : memRead (l ++ m) x = memRead l x := by
  induction l with
  | nil => simpa using memRead_of_all_gt h
  | cons c l ih => simp [memRead_cons, ih]

theorem memRead_dropWhile {m : Memory} {p : Nat → Bool} {x : Nat} (hx : p x = false)
    (hp : ∀ y z, p z = true → y ≤ z → p y = true) :
    memRead (m.dropWhile fun c => p c.1) x = memRead m x := by
  induction m with
  | nil => rfl
  | cons c m ih =>
    by_cases hc : p c.1 = true
    · have hlt : c.1 < x := by
        by_contra hge
        simp [hp x c.1 hc (by omega)] at hx
      simp [hc, ih, memRead_cons, Nat.ne_of_lt hlt, Nat.not_lt_of_gt hlt]
    · simp [hc]

theorem memRead_takeWhile_of_lt {m : Memory} {a x : Nat} (hx : x < a) :
    memRead (m.takeWhile fun c => decide (c.1 < a)) x = memRead m x := by
  induction m with
  | nil => rfl
  | cons c m ih =>
    by_cases hc : c.1 < a
    · simp [hc, memRead_cons, ih]
    · have : x < c.1 := by omega
      simp [hc, memRead_cons, this, Nat.ne_of_gt this]

theorem mem_takeWhile_lt {m : Memory} {a : Nat} {c : Host.Cell} (h : c ∈ m.takeWhile fun c => decide (c.1 < a)) :
    c.1 < a := by simpa using List.mem_takeWhile_imp h

theorem rising_dropWhile {m : Memory} (h : Rising m) (p : Host.Cell → Bool) : Rising (m.dropWhile p) :=
  h.sublist (List.dropWhile_sublist p)

theorem le_of_mem_dropWhile_lt {m : Memory} (h : Rising m) {a : Nat} {c : Host.Cell}
    (hc : c ∈ m.dropWhile fun c => decide (c.1 < a)) : a ≤ c.1 := by
  induction m with
  | nil => simp at hc
  | cons d m ih =>
    obtain ⟨hd, hm⟩ := List.pairwise_cons.1 h
    by_cases hda : d.1 < a
    · exact ih hm (by simpa [List.dropWhile_cons, hda] using hc)
    · rcases List.mem_cons.1 (by simpa [List.dropWhile_cons, hda] using hc) with rfl | hc
      · omega
      · have := hd c hc
        omega

theorem lt_of_mem_dropWhile_le {m : Memory} (h : Rising m) {a : Nat} {c : Host.Cell}
    (hc : c ∈ m.dropWhile fun c => decide (c.1 ≤ a)) : a < c.1 := by
  simpa [Nat.lt_succ_iff, Nat.succ_le_iff] using
    le_of_mem_dropWhile_lt (a := a + 1) h (by simpa [Nat.lt_succ_iff] using hc)

/-- An update lists only addresses it was given or that were listed before. -/
theorem mem_memUpdate {f : Nat → Byte → Byte} {as : List Nat} {m : Memory} {c : Host.Cell} (h : c ∈ memUpdate f as m) :
    (c.1 ∈ as ∧ c.2 ≠ unlistedCell) ∨ c ∈ m := by
  induction as generalizing m with
  | nil => exact .inr h
  | cons a as ih =>
    simp only [memUpdate, List.mem_append] at h
    rcases h with h | h
    · exact .inr ((List.takeWhile_sublist _).mem h)
    · have key : c ∈ memUpdate f as ((m.dropWhile fun c => decide (c.1 < a)).dropWhile fun c => decide (c.1 ≤ a)) →
          (c.1 ∈ a :: as ∧ c.2 ≠ unlistedCell) ∨ c ∈ m := fun h => by
        rcases ih h with h | h
        · exact .inl ⟨by simp [h.1], h.2⟩
        · exact .inr ((List.dropWhile_sublist _).mem ((List.dropWhile_sublist _).mem h))
      unfold listedCell at h
      split at h
      · exact key h
      · next hv =>
        rcases List.mem_cons.1 h with rfl | h
        · exact .inl ⟨by simp, hv⟩
        · exact key h

theorem mem_listedCell {a : Nat} {v : Byte} {m : Memory} {c : Host.Cell} (h : c ∈ listedCell a v m) :
    c = (a, v) ∨ c ∈ m := by
  unfold listedCell at h
  split at h
  · exact .inr h
  · exact List.mem_cons.1 h

theorem memRead_listedCell_self {a : Nat} {v : Byte} {m : Memory} (h : ∀ c ∈ m, a < c.1) :
    memRead (listedCell a v m) a = v := by
  unfold listedCell
  split
  · next hv => rw [memRead_of_all_gt h, hv]
  · simp [memRead_cons]

theorem memRead_listedCell_of_lt {a x : Nat} {v : Byte} {m : Memory} (hx : a < x) :
    memRead (listedCell a v m) x = memRead m x := by
  unfold listedCell
  split
  · rfl
  · simp [memRead_cons, Nat.ne_of_lt hx, Nat.not_lt_of_gt hx]

/-- Everything an update does to what a reader sees. -/
theorem memRead_memUpdate (f : Nat → Byte → Byte) {as : List Nat} {m : Memory} (hs : as.Pairwise (· < ·)) (hm : Rising m)
    (x : Nat) : memRead (memUpdate f as m) x = if x ∈ as then f x (memRead m x) else memRead m x := by
  induction as generalizing m with
  | nil => simp [memUpdate]
  | cons a as ih =>
    obtain ⟨ha, hs⟩ := List.pairwise_cons.1 hs
    have hrest := rising_dropWhile hm fun c => decide (c.1 < a)
    have hrest2 := rising_dropWhile hrest fun c => decide (c.1 ≤ a)
    have hgt : ∀ c ∈ memUpdate f as ((m.dropWhile fun c => decide (c.1 < a)).dropWhile fun c => decide (c.1 ≤ a)),
        a < c.1 := fun c hc => by
      rcases mem_memUpdate hc with h | h
      · exact ha _ h.1
      · exact lt_of_mem_dropWhile_le hrest h
    have hread : ∀ {y}, a ≤ y → memRead (m.dropWhile fun c => decide (c.1 < a)) y = memRead m y := fun {y} hy =>
      memRead_dropWhile (p := fun z => decide (z < a)) (by simpa using hy) (by simp; omega)
    have hread2 : ∀ {y}, a < y → memRead ((m.dropWhile fun c => decide (c.1 < a)).dropWhile fun c => decide (c.1 ≤ a)) y =
        memRead m y := fun {y} hy => by
      rw [memRead_dropWhile (p := fun z => decide (z ≤ a)) (by simpa using hy) (by simp; omega), hread (by omega)]
    simp only [memUpdate]
    rcases Nat.lt_trichotomy x a with hx | rfl | hx
    · have hge : ∀ c ∈ listedCell a (f a (memRead (m.dropWhile fun c => decide (c.1 < a)) a))
          (memUpdate f as ((m.dropWhile fun c => decide (c.1 < a)).dropWhile fun c => decide (c.1 ≤ a))), x < c.1 := by
        intro c hc
        rcases mem_listedCell hc with rfl | hc
        · exact hx
        · have := hgt c hc
          omega
      have hnot : x ∉ a :: as := by
        intro h
        rcases List.mem_cons.1 h with rfl | h
        · omega
        · have := ha x h
          omega
      rw [memRead_append_of_lt hge, memRead_takeWhile_of_lt hx, if_neg hnot]
    · rw [memRead_append_of_all_lt fun c hc => mem_takeWhile_lt hc, memRead_listedCell_self hgt, hread le_rfl]
      simp
    · rw [memRead_append_of_all_lt fun c hc => Nat.lt_trans (mem_takeWhile_lt hc) hx, memRead_listedCell_of_lt hx,
        ih hs hrest2, hread2 hx]
      simp [Nat.ne_of_gt hx]

theorem rising_memUpdate (f : Nat → Byte → Byte) {as : List Nat} {m : Memory} (hs : as.Pairwise (· < ·)) (hm : Rising m) :
    Rising (memUpdate f as m) := by
  induction as generalizing m with
  | nil => exact hm
  | cons a as ih =>
    obtain ⟨ha, hs⟩ := List.pairwise_cons.1 hs
    have hrest := rising_dropWhile hm fun c => decide (c.1 < a)
    have hrest2 := rising_dropWhile hrest fun c => decide (c.1 ≤ a)
    have hgt : ∀ c ∈ memUpdate f as ((m.dropWhile fun c => decide (c.1 < a)).dropWhile fun c => decide (c.1 ≤ a)),
        a < c.1 := fun c hc => by
      rcases mem_memUpdate hc with h | h
      · exact ha _ h.1
      · exact lt_of_mem_dropWhile_le hrest h
    have htail : Rising (listedCell a (f a (memRead (m.dropWhile fun c => decide (c.1 < a)) a))
        (memUpdate f as ((m.dropWhile fun c => decide (c.1 < a)).dropWhile fun c => decide (c.1 ≤ a)))) := by
      unfold listedCell
      split
      · exact ih hs hrest2
      · exact List.pairwise_cons.2 ⟨hgt, ih hs hrest2⟩
    refine List.pairwise_append.2 ⟨hm.sublist (List.takeWhile_sublist _), htail, fun c hc d hd => ?_⟩
    have hca := mem_takeWhile_lt hc
    rcases mem_listedCell hd with rfl | hd
    · exact hca
    · exact Nat.lt_trans hca (hgt d hd)

theorem memoryFrom_iff {low : Nat} {m : Memory} :
    memoryFrom low m = true ↔ Rising m ∧ ∀ c ∈ m, low ≤ c.1 ∧ c.1 < 64800 ∧ c.2 ≠ unlistedCell := by
  induction m generalizing low with
  | nil => simp [memoryFrom]
  | cons c m ih =>
    simp only [memoryFrom, Bool.and_eq_true, decide_eq_true_eq, ih, List.pairwise_cons, List.forall_mem_cons]
    constructor
    · rintro ⟨⟨⟨hl, hb⟩, hv⟩, hr, hm⟩
      exact ⟨⟨fun d hd => (hm d hd).1, hr⟩, ⟨hl, hb, hv⟩, fun d hd => ⟨by have := (hm d hd).1; omega, (hm d hd).2⟩⟩
    · rintro ⟨⟨hc, hr⟩, ⟨hl, hb, hv⟩, hm⟩
      exact ⟨⟨⟨hl, hb⟩, hv⟩, hr, fun d hd => ⟨hc d hd, (hm d hd).2⟩⟩

theorem memoryWf_iff {m : Memory} :
    memoryWf m = true ↔ Rising m ∧ ∀ c ∈ m, c.1 < 64800 ∧ c.2 ≠ unlistedCell := by
  simp [memoryWf, memoryFrom_iff]

theorem rising_of_memoryWf {m : Memory} (h : memoryWf m = true) : Rising m := (memoryWf_iff.1 h).1

/-- Every update at addresses of the framebuffer keeps the canonical form. -/
theorem memoryWf_memUpdate (f : Nat → Byte → Byte) {as : List Nat} {m : Memory} (hs : as.Pairwise (· < ·))
    (hb : ∀ a ∈ as, a < 64800) (hm : memoryWf m = true) : memoryWf (memUpdate f as m) = true := by
  obtain ⟨hr, hc⟩ := memoryWf_iff.1 hm
  refine memoryWf_iff.2 ⟨rising_memUpdate f hs hr, fun c h => ?_⟩
  rcases mem_memUpdate h with h | h
  · exact ⟨hb _ h.1, h.2⟩
  · exact hc c h

theorem memoryWf_memWrite {m : Memory} {a : Nat} (v : Byte) (ha : a < 64800) (hm : memoryWf m = true) :
    memoryWf (memWrite m a v) = true :=
  memoryWf_memUpdate _ (by simp) (by simpa using ha) hm

/-- A read after a write of one cell. -/
theorem memRead_memWrite {m : Memory} (hm : Rising m) (a : Nat) (v : Byte) (x : Nat) :
    memRead (memWrite m a v) x = if x = a then v else memRead m x := by
  simp [memWrite, memRead_memUpdate _ (List.pairwise_singleton _ _) hm]

/-- A memory in canonical form is told by what its cells read as: equal memories are equal lists. -/
theorem memory_ext {m n : Memory} (hm : memoryWf m = true) (hn : memoryWf n = true)
    (h : ∀ a, memRead m a = memRead n a) : m = n := by
  induction m generalizing n with
  | nil =>
    cases n with
    | nil => rfl
    | cons d n =>
      have := h d.1
      simp only [memRead_nil, memRead_cons, if_true] at this
      exact absurd this.symm (((memoryWf_iff.1 hn).2 d (by simp)).2)
  | cons c m ih =>
    obtain ⟨hmr, hmc⟩ := memoryWf_iff.1 hm
    obtain ⟨hcm, hmr'⟩ := List.pairwise_cons.1 hmr
    cases n with
    | nil =>
      have := h c.1
      simp only [memRead_nil, memRead_cons, if_true] at this
      exact absurd this (hmc c (by simp)).2
    | cons d n =>
      obtain ⟨hnr, hnc⟩ := memoryWf_iff.1 hn
      obtain ⟨hdn, hnr'⟩ := List.pairwise_cons.1 hnr
      have hcd : c.1 = d.1 := by
        rcases Nat.lt_trichotomy c.1 d.1 with hlt | heq | hlt
        · have := h c.1
          simp [memRead_cons, hlt, Nat.ne_of_gt hlt] at this
          exact absurd this (hmc c (by simp)).2
        · exact heq
        · have := h d.1
          simp [memRead_cons, hlt, Nat.ne_of_gt hlt] at this
          exact absurd this.symm (hnc d (by simp)).2
      have hv : c.2 = d.2 := by simpa [memRead_cons, hcd] using h c.1
      have htail : m = n := by
        refine ih (memoryWf_iff.2 ⟨hmr', fun e he => hmc e (by simp [he])⟩)
          (memoryWf_iff.2 ⟨hnr', fun e he => hnc e (by simp [he])⟩) fun a => ?_
        rcases Nat.lt_trichotomy a c.1 with hlt | rfl | hlt
        · rw [memRead_of_all_gt fun e he => Nat.lt_trans hlt (hcm e he),
            memRead_of_all_gt fun e he => Nat.lt_trans (hcd ▸ hlt) (hdn e he)]
        · rw [memRead_of_all_gt fun e he => hcm e he, memRead_of_all_gt fun e he => hcd ▸ hdn e he]
        · have := h a
          simpa [memRead_cons, ← hcd, Nat.ne_of_lt hlt, Nat.not_lt_of_gt hlt] using this
      rw [htail, show c = d from Prod.ext hcd hv]

end Sys2Proof.Machine
end

