-- ==== Sys2Proof/Laws/State.lean ====
section
/-! SUPPORT. One lemma per field of each named update of the state, all true by `rfl`. -/
namespace Sys2Proof.Machine

@[simp] theorem State.setFb_fb (s : State) (v : Memory) : (s.setFb v).fb = v := rfl
@[simp] theorem State.setFb_ct (s : State) (v : Memory) : (s.setFb v).ct = s.ct := rfl
@[simp] theorem State.setFb_status (s : State) (v : Memory) : (s.setFb v).status = s.status := rfl
@[simp] theorem State.setFb_phase (s : State) (v : Memory) : (s.setFb v).phase = s.phase := rfl
@[simp] theorem State.setFb_diag (s : State) (v : Memory) : (s.setFb v).diag = s.diag := rfl
@[simp] theorem State.setFb_edges (s : State) (v : Memory) : (s.setFb v).edges = s.edges := rfl

@[simp] theorem State.setCt_fb (s : State) (v : Vector ColorEntry 16) : (s.setCt v).fb = s.fb := rfl
@[simp] theorem State.setCt_ct (s : State) (v : Vector ColorEntry 16) : (s.setCt v).ct = v := rfl
@[simp] theorem State.setCt_status (s : State) (v : Vector ColorEntry 16) : (s.setCt v).status = s.status := rfl
@[simp] theorem State.setCt_phase (s : State) (v : Vector ColorEntry 16) : (s.setCt v).phase = s.phase := rfl
@[simp] theorem State.setCt_diag (s : State) (v : Vector ColorEntry 16) : (s.setCt v).diag = s.diag := rfl
@[simp] theorem State.setCt_edges (s : State) (v : Vector ColorEntry 16) : (s.setCt v).edges = s.edges := rfl

@[simp] theorem State.setStatus_fb (s : State) (v : BitVec 8) : (s.setStatus v).fb = s.fb := rfl
@[simp] theorem State.setStatus_ct (s : State) (v : BitVec 8) : (s.setStatus v).ct = s.ct := rfl
@[simp] theorem State.setStatus_status (s : State) (v : BitVec 8) : (s.setStatus v).status = v := rfl
@[simp] theorem State.setStatus_phase (s : State) (v : BitVec 8) : (s.setStatus v).phase = s.phase := rfl
@[simp] theorem State.setStatus_diag (s : State) (v : BitVec 8) : (s.setStatus v).diag = s.diag := rfl
@[simp] theorem State.setStatus_edges (s : State) (v : BitVec 8) : (s.setStatus v).edges = s.edges := rfl

@[simp] theorem State.setPhase_fb (s : State) (v : Phase) : (s.setPhase v).fb = s.fb := rfl
@[simp] theorem State.setPhase_ct (s : State) (v : Phase) : (s.setPhase v).ct = s.ct := rfl
@[simp] theorem State.setPhase_status (s : State) (v : Phase) : (s.setPhase v).status = s.status := rfl
@[simp] theorem State.setPhase_phase (s : State) (v : Phase) : (s.setPhase v).phase = v := rfl
@[simp] theorem State.setPhase_diag (s : State) (v : Phase) : (s.setPhase v).diag = s.diag := rfl
@[simp] theorem State.setPhase_edges (s : State) (v : Phase) : (s.setPhase v).edges = s.edges := rfl

@[simp] theorem State.setDiag_fb (s : State) (v : Option Diagnostic) : (s.setDiag v).fb = s.fb := rfl
@[simp] theorem State.setDiag_ct (s : State) (v : Option Diagnostic) : (s.setDiag v).ct = s.ct := rfl
@[simp] theorem State.setDiag_status (s : State) (v : Option Diagnostic) : (s.setDiag v).status = s.status := rfl
@[simp] theorem State.setDiag_phase (s : State) (v : Option Diagnostic) : (s.setDiag v).phase = s.phase := rfl
@[simp] theorem State.setDiag_diag (s : State) (v : Option Diagnostic) : (s.setDiag v).diag = v := rfl
@[simp] theorem State.setDiag_edges (s : State) (v : Option Diagnostic) : (s.setDiag v).edges = s.edges := rfl

@[simp] theorem State.setEdges_fb (s : State) (v : List PortInputs) : (s.setEdges v).fb = s.fb := rfl
@[simp] theorem State.setEdges_ct (s : State) (v : List PortInputs) : (s.setEdges v).ct = s.ct := rfl
@[simp] theorem State.setEdges_status (s : State) (v : List PortInputs) : (s.setEdges v).status = s.status := rfl
@[simp] theorem State.setEdges_phase (s : State) (v : List PortInputs) : (s.setEdges v).phase = s.phase := rfl
@[simp] theorem State.setEdges_diag (s : State) (v : List PortInputs) : (s.setEdges v).diag = s.diag := rfl
@[simp] theorem State.setEdges_edges (s : State) (v : List PortInputs) : (s.setEdges v).edges = v := rfl

@[simp] theorem raiseDiag_fb (k : DiagKind) (c : BitVec 6) (s : State) : (raiseDiag k c s).fb = s.fb := rfl
@[simp] theorem raiseDiag_ct (k : DiagKind) (c : BitVec 6) (s : State) : (raiseDiag k c s).ct = s.ct := rfl
@[simp] theorem raiseDiag_status (k : DiagKind) (c : BitVec 6) (s : State) : (raiseDiag k c s).status = setSticky k s.status := rfl
@[simp] theorem raiseDiag_phase (k : DiagKind) (c : BitVec 6) (s : State) : (raiseDiag k c s).phase = s.phase := rfl
@[simp] theorem raiseDiag_diag (k : DiagKind) (c : BitVec 6) (s : State) : (raiseDiag k c s).diag = some { kind := k, code := c } := rfl
@[simp] theorem raiseDiag_edges (k : DiagKind) (c : BitVec 6) (s : State) : (raiseDiag k c s).edges = s.edges := rfl

@[simp] theorem unknownInstr_fb (c : BitVec 6) (s : State) : (unknownInstr c s).fb = s.fb := rfl
@[simp] theorem unknownInstr_ct (c : BitVec 6) (s : State) : (unknownInstr c s).ct = s.ct := rfl
@[simp] theorem unknownInstr_status (c : BitVec 6) (s : State) : (unknownInstr c s).status = setSticky .unknownInstr s.status := rfl
@[simp] theorem unknownInstr_phase (c : BitVec 6) (s : State) : (unknownInstr c s).phase = s.phase := rfl
@[simp] theorem unknownInstr_diag (c : BitVec 6) (s : State) : (unknownInstr c s).diag = some { kind := .unknownInstr, code := c } := rfl
@[simp] theorem unknownInstr_edges (c : BitVec 6) (s : State) : (unknownInstr c s).edges = s.edges := rfl

@[simp] theorem tileOutOfRange_fb (c : BitVec 6) (s : State) : (tileOutOfRange c s).fb = s.fb := rfl
@[simp] theorem tileOutOfRange_ct (c : BitVec 6) (s : State) : (tileOutOfRange c s).ct = s.ct := rfl
@[simp] theorem tileOutOfRange_status (c : BitVec 6) (s : State) : (tileOutOfRange c s).status = setSticky .tileOob s.status := rfl
@[simp] theorem tileOutOfRange_phase (c : BitVec 6) (s : State) : (tileOutOfRange c s).phase = s.phase := rfl
@[simp] theorem tileOutOfRange_diag (c : BitVec 6) (s : State) : (tileOutOfRange c s).diag = some { kind := .tileOob, code := c } := rfl
@[simp] theorem tileOutOfRange_edges (c : BitVec 6) (s : State) : (tileOutOfRange c s).edges = s.edges := rfl

@[simp] theorem badScale_fb (n : Nat) (s : State) : (badScale n s).fb = s.fb := rfl
@[simp] theorem badScale_ct (n : Nat) (s : State) : (badScale n s).ct = s.ct := rfl
@[simp] theorem badScale_status (n : Nat) (s : State) : (badScale n s).status = setSticky .badScale s.status := rfl
@[simp] theorem badScale_phase (n : Nat) (s : State) : (badScale n s).phase = s.phase := rfl
@[simp] theorem badScale_diag (n : Nat) (s : State) : (badScale n s).diag = some { kind := .badScale, code := BitVec.ofNat 6 n } := rfl
@[simp] theorem badScale_edges (n : Nat) (s : State) : (badScale n s).edges = s.edges := rfl

@[simp] theorem sampleEdge_fb (s : State) : (sampleEdge s).fb = s.fb := rfl
@[simp] theorem sampleEdge_ct (s : State) : (sampleEdge s).ct = s.ct := rfl
@[simp] theorem sampleEdge_status (s : State) : (sampleEdge s).status = s.status := rfl
@[simp] theorem sampleEdge_phase (s : State) : (sampleEdge s).phase = s.phase := rfl
@[simp] theorem sampleEdge_diag (s : State) : (sampleEdge s).diag = none := rfl
@[simp] theorem sampleEdge_edges (s : State) : (sampleEdge s).edges = s.edges.tail := rfl

@[simp] theorem resetBlock_fb (s : State) : (resetBlock s).fb = [] := rfl
@[simp] theorem resetBlock_ct (s : State) : (resetBlock s).ct = Vector.replicate 16 { r := 0, g := 0, b := 0, a := 0 } := rfl
@[simp] theorem resetBlock_status (s : State) : (resetBlock s).status = 0 := rfl
@[simp] theorem resetBlock_phase (s : State) : (resetBlock s).phase = .idle := rfl
@[simp] theorem resetBlock_diag (s : State) : (resetBlock s).diag = none := rfl
@[simp] theorem resetBlock_edges (s : State) : (resetBlock s).edges = s.edges := rfl

@[simp] theorem holdRecord_fb (r : Record) (s : State) : (holdRecord r s).fb = s.fb := rfl
@[simp] theorem holdRecord_ct (r : Record) (s : State) : (holdRecord r s).ct = s.ct := rfl
@[simp] theorem holdRecord_status (r : Record) (s : State) : (holdRecord r s).status = s.status := rfl
@[simp] theorem holdRecord_phase (r : Record) (s : State) : (holdRecord r s).phase = .apply r := rfl
@[simp] theorem holdRecord_diag (r : Record) (s : State) : (holdRecord r s).diag = s.diag := rfl
@[simp] theorem holdRecord_edges (r : Record) (s : State) : (holdRecord r s).edges = .quiet :: s.edges := rfl

end Sys2Proof.Machine
end

