-- ==== Sys2Proof/Laws/Ops.lean ====
section
/-! SUPPORT. One lemma per shared operation: rectangles and drawing, diagnostics, the color table's halves, sequencing. -/
namespace Sys2Proof.Machine

@[simp] theorem andThen_next (s : State) (k : State → Host.Outcome State Fault Refusal) : andThen (.next s) k = k s := rfl

@[simp] theorem finishRecord_next (s : State) : finishRecord (.next s) = .next (s.setPhase .idle) := rfl

/-- What `andThen` can do when it answers a next state. -/
theorem andThen_eq_next {o : Host.Outcome State Fault Refusal} {k : State → Host.Outcome State Fault Refusal} {t : State} :
    andThen o k = .next t ↔ ∃ s, o = .next s ∧ k s = .next t := by
  cases o <;> simp [andThen]

theorem finishRecord_eq_next {o : Host.Outcome State Fault Refusal} {t : State} :
    finishRecord o = .next t ↔ ∃ s, o = .next s ∧ s.setPhase .idle = t := by
  simp [finishRecord, andThen_eq_next]

/-! ### Rectangles -/

theorem rectInGrid_iff {q : Rect} : rectInGrid q = true ↔ q.top + q.height ≤ 216 ∧ q.left + q.width ≤ 300 := by
  simp [rectInGrid]

theorem rectCovers_iff {q : Rect} {y x : Nat} :
    rectCovers q y x = true ↔ q.top ≤ y ∧ y < q.top + q.height ∧ q.left ≤ x ∧ x < q.left + q.width := by
  simp [rectCovers, and_assoc]

theorem addrRow_cellAddr {y x : Nat} (hx : x < 300) : addrRow (cellAddr y x) = y := by
  simp only [addrRow, cellAddr]; omega

theorem addrColumn_cellAddr {y x : Nat} (hx : x < 300) : addrColumn (cellAddr y x) = x := by
  simp only [addrColumn, cellAddr]; omega

theorem cellAddr_row_column (a : Nat) : cellAddr (addrRow a) (addrColumn a) = a := by
  simp only [addrRow, addrColumn, cellAddr]; omega

theorem mem_rectAddrs {q : Rect} (h : q.left + q.width ≤ 300) {a : Nat} :
    a ∈ rectAddrs q ↔ rectCovers q (addrRow a) (addrColumn a) = true := by
  simp only [rectAddrs, rowAddrs, List.mem_flatMap, List.mem_map, List.mem_range, rectCovers_iff, cellAddr, addrRow, addrColumn]
  constructor
  · rintro ⟨i, hi, j, hj, rfl⟩
    omega
  · intro hc
    exact ⟨a / 300 - q.top, by omega, a % 300 - q.left, by omega, by omega⟩

theorem pairwise_rectAddrs {q : Rect} (h : q.left + q.width ≤ 300) : (rectAddrs q).Pairwise (· < ·) := by
  refine List.pairwise_flatMap.2 ⟨fun i _ => ?_, ?_⟩
  · exact List.pairwise_map.2 (List.pairwise_lt_range.imp fun hjk => by simp only [cellAddr]; omega)
  · refine List.pairwise_lt_range.imp fun {i k} hik a ha b hb => ?_
    simp only [rowAddrs, List.mem_map, List.mem_range, cellAddr] at ha hb
    obtain ⟨j, hj, rfl⟩ := ha
    obtain ⟨l, hl, rfl⟩ := hb
    omega

theorem rectAddrs_lt {q : Rect} (h : rectInGrid q = true) {a : Nat} (ha : a ∈ rectAddrs q) : a < 64800 := by
  obtain ⟨hy, hx⟩ := rectInGrid_iff.1 h
  have := rectCovers_iff.1 ((mem_rectAddrs hx).1 ha)
  simp only [addrRow, addrColumn] at this
  omega

/-! ### Drawing -/

theorem drawRect_of_inGrid {q : Rect} (h : rectInGrid q = true) (f : Nat → Nat → Byte → Byte) (s : State) :
    drawRect q f s = .next (s.setFb (rectUpdate q f s.fb)) := by
  rw [drawRect, if_pos h]

/-- What drawing can do when it answers a next state: the rectangle is inside the grid and only `fb` changes. -/
theorem drawRect_eq_next {q : Rect} {f : Nat → Nat → Byte → Byte} {s t : State} :
    drawRect q f s = .next t ↔ rectInGrid q = true ∧ t = s.setFb (rectUpdate q f s.fb) := by
  unfold drawRect
  split
  · next h => simp only [h, true_and, Host.Outcome.next.injEq]; exact eq_comm
  · next h => simp [h]

theorem memRead_rectUpdate {q : Rect} (h : q.left + q.width ≤ 300) (f : Nat → Nat → Byte → Byte) {m : Memory} (hm : Rising m)
    (a : Nat) : memRead (rectUpdate q f m) a =
      if rectCovers q (addrRow a) (addrColumn a) then f (addrRow a) (addrColumn a) (memRead m a) else memRead m a := by
  rw [rectUpdate, memRead_memUpdate _ (pairwise_rectAddrs h) hm]
  simp [mem_rectAddrs h]

/-- Every cell after a drawing: those the rectangle covers are replaced, the others are as before. -/
theorem cell_rectUpdate {q : Rect} (h : q.left + q.width ≤ 300) (f : Nat → Nat → Byte → Byte) {s : State} (hm : Rising s.fb)
    {y x : Nat} (hx : x < 300) : cell (s.setFb (rectUpdate q f s.fb)) y x =
      if rectCovers q y x then f y x (cell s y x) else cell s y x := by
  have := memRead_rectUpdate h f hm (cellAddr y x)
  rwa [addrRow_cellAddr hx, addrColumn_cellAddr hx] at this

theorem memoryWf_rectUpdate {q : Rect} (h : rectInGrid q = true) (f : Nat → Nat → Byte → Byte) {m : Memory}
    (hm : memoryWf m = true) : memoryWf (rectUpdate q f m) = true := by
  rw [rectUpdate]
  exact memoryWf_memUpdate _ (pairwise_rectAddrs (rectInGrid_iff.1 h).2) (fun _ => rectAddrs_lt h) hm

theorem cell_eq_memRead (s : State) (a : Nat) : cell s (addrRow a) (addrColumn a) = memRead s.fb a := by
  rw [cell, cellAddr_row_column]

theorem tileOutside_eq_false_iff {row column : Nat} :
    tileOutside row column = false ↔ row + 12 ≤ 216 ∧ column + 6 ≤ 300 := by
  simp [tileOutside]

theorem rectInGrid_tileRect {row column : Nat} (h : tileOutside row column = false) :
    rectInGrid (tileRect row column) = true :=
  rectInGrid_iff.2 (tileOutside_eq_false_iff.1 h)

theorem rectInGrid_wholeGrid : rectInGrid wholeGrid = true := rfl
theorem rectInGrid_topBorder : rectInGrid topBorder = true := rfl
theorem rectInGrid_leftBorder : rectInGrid leftBorder = true := rfl
theorem rectInGrid_rightBorder : rectInGrid rightBorder = true := rfl

/-! ### Status -/

theorem statusMask_eq (k : DiagKind) :
    statusMask k = match k with | .unknownInstr => 1 | .unknownTag => 2 | .tileOob => 4 | .badScale => 8 := by
  cases k <;> rfl

theorem stickySet_setSticky (k j : DiagKind) (v : BitVec 8) :
    stickySet j (setSticky k v) = (stickySet j v || decide (j = k)) := by
  cases k <;> cases j <;> simp [stickySet, setSticky, statusMask, statusBit]

/-! ### Color table -/

theorem loadHalf_get (base : Nat) (es : Vector Rgb 8) (ct : Vector ColorEntry 16) (i : Nat) (hi : i < 16) :
    (loadHalf base es ct)[i] = if h : base ≤ i ∧ i < base + 8 then opaqueEntry es[i - base] else ct[i] := by
  simp [loadHalf]

end Sys2Proof.Machine
end

