-- ==== Sys2Proof/Laws/Exec.lean ====
section
/-! SUPPORT. What each meaning answers, in terms of the shared operations, and one inversion lemma for `exec`. -/
namespace Sys2Proof.Machine

/-- Zero-extended colors are below 16. -/
theorem zext8_lt (c : Nibble) : (zext8 c).toNat < 16 := by revert c; decide

theorem fillRect_of_inGrid {q : Rect} (h : rectInGrid q = true) (c : Nibble) (s : State) :
    fillRect q c s = .next (s.setFb (rectUpdate q (fun _ _ _ => zext8 c) s.fb)) :=
  drawRect_of_inGrid h _ s

/-- The memory a BorderPreset leaves: top, then left, then right. -/
def borderFb (c : Nibble) (m : Memory) : Memory :=
  rectUpdate rightBorder (fun _ _ _ => zext8 c)
    (rectUpdate leftBorder (fun _ _ _ => zext8 c) (rectUpdate topBorder (fun _ _ _ => zext8 c) m))

theorem exec_memoryPreset (c r : Nibble) (s : State) : exec (.memoryPreset c r) s =
    .next (if r ≠ 0 then s else s.setFb (rectUpdate wholeGrid (fun _ _ _ => zext8 c) s.fb)) := by
  show execMemoryPreset _ _ _ = _
  unfold execMemoryPreset
  split
  · rfl
  · exact fillRect_of_inGrid rectInGrid_wholeGrid c s

theorem exec_borderPreset (c : Nibble) (s : State) : exec (.borderPreset c) s = .next (s.setFb (borderFb c s.fb)) := by
  show execBorderPreset c s = _
  simp only [execBorderPreset, fillRect_of_inGrid rectInGrid_topBorder, fillRect_of_inGrid rectInGrid_leftBorder,
    fillRect_of_inGrid rectInGrid_rightBorder, andThen_next, borderFb, State.setFb_fb]
  rfl

theorem exec_tileBlock (c0 c1 : Nibble) (row col : Nat) (bm : Vector Byte 12) (s : State) :
    exec (.tileBlock c0 c1 row col bm) s = .next (if tileOutside row col then tileOutOfRange 6 s
      else s.setFb (rectUpdate (tileRect row col) (fun y x _ => zext8 (sel bm (y - row) (x - col) c0 c1)) s.fb)) := by
  show execTileBlock _ _ _ _ _ _ = _
  unfold execTileBlock
  split
  · rfl
  · next h => exact drawRect_of_inGrid (rectInGrid_tileRect (by simpa using h)) _ s

theorem exec_tileBlockXor (c0 c1 : Nibble) (row col : Nat) (bm : Vector Byte 12) (s : State) :
    exec (.tileBlockXor c0 c1 row col bm) s = .next (if tileOutside row col then tileOutOfRange 38 s
      else s.setFb (rectUpdate (tileRect row col) (fun y x v => v ^^^ zext8 (sel bm (y - row) (x - col) c0 c1)) s.fb)) := by
  show execTileBlockXor _ _ _ _ _ _ = _
  unfold execTileBlockXor
  split
  · rfl
  · next h => exact drawRect_of_inGrid (rectInGrid_tileRect (by simpa using h)) _ s

/-- Everything an instruction can do: nothing; report a code; report a tile; load a half of the table; paint the border; or
draw one rectangle inside the grid, which keeps cells below 16. -/
inductive ExecEffect (i : Instr) (s : State) : State → Prop where
  | nothing : ExecEffect i s s
  | unknown (code : BitVec 6) : ExecEffect i s (unknownInstr code s)
  | outside (code : BitVec 6) : ExecEffect i s (tileOutOfRange code s)
  | loadLow (es : Vector Rgb 8) (h : i = .loadColorTableLow es) : ExecEffect i s (s.setCt (loadHalf 0 es s.ct))
  | loadHigh (es : Vector Rgb 8) (h : i = .loadColorTableHigh es) : ExecEffect i s (s.setCt (loadHalf 8 es s.ct))
  | border (c : Nibble) (h : i = .borderPreset c) : ExecEffect i s (s.setFb (borderFb c s.fb))
  | draw (q : Rect) (f : Nat → Nat → Byte → Byte) (hq : rectInGrid q = true)
      (hf : ∀ y x (v : Byte), v.toNat < 16 → (f y x v).toNat < 16) : ExecEffect i s (s.setFb (rectUpdate q f s.fb))

/-- `exec` always answers a next state, by one of these effects. -/
theorem exec_effect (i : Instr) (s : State) : ∃ t, exec i s = .next t ∧ ExecEffect i s t := by
  cases i with
  | memoryPreset c r =>
    refine ⟨_, exec_memoryPreset c r s, ?_⟩
    split
    · exact .nothing
    · exact .draw _ _ rectInGrid_wholeGrid fun _ _ _ _ => zext8_lt _
  | borderPreset c => exact ⟨_, exec_borderPreset c s, .border c rfl⟩
  | tileBlock c0 c1 row col bm =>
    refine ⟨_, exec_tileBlock c0 c1 row col bm s, ?_⟩
    split
    · exact .outside _
    · next h => exact .draw _ _ (rectInGrid_tileRect (by simpa using h)) fun _ _ _ _ => zext8_lt _
  | tileBlockXor c0 c1 row col bm =>
    refine ⟨_, exec_tileBlockXor c0 c1 row col bm s, ?_⟩
    split
    · exact .outside _
    · next h =>
      refine .draw _ _ (rectInGrid_tileRect (by simpa using h)) fun y x v hv => ?_
      rw [BitVec.toNat_xor]
      exact Nat.xor_lt_two_pow (n := 4) hv (zext8_lt _)
  | loadColorTableLow es => exact ⟨_, rfl, .loadLow es rfl⟩
  | loadColorTableHigh es => exact ⟨_, rfl, .loadHigh es rfl⟩
  | nop => exact ⟨_, rfl, .nothing⟩
  | nonGraphics => exact ⟨_, rfl, .nothing⟩
  | _ => exact ⟨_, rfl, .unknown _⟩

/-- The same, from an answer. -/
theorem effect_of_exec {i : Instr} {s t : State} (h : exec i s = .next t) : ExecEffect i s t := by
  obtain ⟨u, hu, e⟩ := exec_effect i s
  rw [h] at hu
  cases hu
  exact e

end Sys2Proof.Machine
end

