-- ==== Sys2Proof/Laws/PerInstr.lean ====
section
/-! SUPPORT. Statements about every instruction as syntax, one lemma per constructor. -/
namespace Sys2Proof.Laws.EncodesKey

/-- The two codes of an encoded instruction are those of its row of the table (R71, R75). -/
def Statement (i : Instr) : Prop :=
  commandCode (encode i) = (commandByteOf i).extractLsb' 0 6 ∧ instrCode (encode i) = BitVec.ofNat 6 (codeOf i)

theorem nop : Statement .nop := ⟨rfl, rfl⟩
theorem memoryPreset (color rep : Nibble) : Statement (.memoryPreset color rep) := ⟨rfl, rfl⟩
theorem borderPreset (color : Nibble) : Statement (.borderPreset color) := ⟨rfl, rfl⟩
theorem reserved3 : Statement .reserved3 := ⟨rfl, rfl⟩
theorem reserved4 : Statement .reserved4 := ⟨rfl, rfl⟩
theorem reserved5 : Statement .reserved5 := ⟨rfl, rfl⟩
theorem tileBlock (color0 color1 : Nibble) (row column : Nat) (bm : Vector Byte 12) : Statement (.tileBlock color0 color1 row column bm) := ⟨rfl, rfl⟩
theorem reserved7 : Statement .reserved7 := ⟨rfl, rfl⟩
theorem reserved8 : Statement .reserved8 := ⟨rfl, rfl⟩
theorem reserved9 : Statement .reserved9 := ⟨rfl, rfl⟩
theorem reserved10 : Statement .reserved10 := ⟨rfl, rfl⟩
theorem reserved11 : Statement .reserved11 := ⟨rfl, rfl⟩
theorem reserved12 : Statement .reserved12 := ⟨rfl, rfl⟩
theorem reserved13 : Statement .reserved13 := ⟨rfl, rfl⟩
theorem reserved14 : Statement .reserved14 := ⟨rfl, rfl⟩
theorem reserved15 : Statement .reserved15 := ⟨rfl, rfl⟩
theorem reserved16 : Statement .reserved16 := ⟨rfl, rfl⟩
theorem reserved17 : Statement .reserved17 := ⟨rfl, rfl⟩
theorem reserved18 : Statement .reserved18 := ⟨rfl, rfl⟩
theorem reserved19 : Statement .reserved19 := ⟨rfl, rfl⟩
theorem scrollPreset : Statement .scrollPreset := ⟨rfl, rfl⟩
theorem reserved21 : Statement .reserved21 := ⟨rfl, rfl⟩
theorem reserved22 : Statement .reserved22 := ⟨rfl, rfl⟩
theorem reserved23 : Statement .reserved23 := ⟨rfl, rfl⟩
theorem scrollCopy : Statement .scrollCopy := ⟨rfl, rfl⟩
theorem reserved25 : Statement .reserved25 := ⟨rfl, rfl⟩
theorem reserved26 : Statement .reserved26 := ⟨rfl, rfl⟩
theorem reserved27 : Statement .reserved27 := ⟨rfl, rfl⟩
theorem defineTransparentColor : Statement .defineTransparentColor := ⟨rfl, rfl⟩
theorem reserved29 : Statement .reserved29 := ⟨rfl, rfl⟩
theorem loadColorTableLow (es : Vector Rgb 8) : Statement (.loadColorTableLow es) := ⟨rfl, rfl⟩
theorem loadColorTableHigh (es : Vector Rgb 8) : Statement (.loadColorTableHigh es) := ⟨rfl, rfl⟩
theorem reserved32 : Statement .reserved32 := ⟨rfl, rfl⟩
theorem reserved33 : Statement .reserved33 := ⟨rfl, rfl⟩
theorem reserved34 : Statement .reserved34 := ⟨rfl, rfl⟩
theorem reserved35 : Statement .reserved35 := ⟨rfl, rfl⟩
theorem reserved36 : Statement .reserved36 := ⟨rfl, rfl⟩
theorem reserved37 : Statement .reserved37 := ⟨rfl, rfl⟩
theorem tileBlockXor (color0 color1 : Nibble) (row column : Nat) (bm : Vector Byte 12) : Statement (.tileBlockXor color0 color1 row column bm) := ⟨rfl, rfl⟩
theorem reserved39 : Statement .reserved39 := ⟨rfl, rfl⟩
theorem reserved40 : Statement .reserved40 := ⟨rfl, rfl⟩
theorem reserved41 : Statement .reserved41 := ⟨rfl, rfl⟩
theorem reserved42 : Statement .reserved42 := ⟨rfl, rfl⟩
theorem reserved43 : Statement .reserved43 := ⟨rfl, rfl⟩
theorem reserved44 : Statement .reserved44 := ⟨rfl, rfl⟩
theorem reserved45 : Statement .reserved45 := ⟨rfl, rfl⟩
theorem reserved46 : Statement .reserved46 := ⟨rfl, rfl⟩
theorem reserved47 : Statement .reserved47 := ⟨rfl, rfl⟩
theorem reserved48 : Statement .reserved48 := ⟨rfl, rfl⟩
theorem reserved49 : Statement .reserved49 := ⟨rfl, rfl⟩
theorem reserved50 : Statement .reserved50 := ⟨rfl, rfl⟩
theorem reserved51 : Statement .reserved51 := ⟨rfl, rfl⟩
theorem reserved52 : Statement .reserved52 := ⟨rfl, rfl⟩
theorem reserved53 : Statement .reserved53 := ⟨rfl, rfl⟩
theorem reserved54 : Statement .reserved54 := ⟨rfl, rfl⟩
theorem reserved55 : Statement .reserved55 := ⟨rfl, rfl⟩
theorem reserved56 : Statement .reserved56 := ⟨rfl, rfl⟩
theorem reserved57 : Statement .reserved57 := ⟨rfl, rfl⟩
theorem reserved58 : Statement .reserved58 := ⟨rfl, rfl⟩
theorem reserved59 : Statement .reserved59 := ⟨rfl, rfl⟩
theorem reserved60 : Statement .reserved60 := ⟨rfl, rfl⟩
theorem reserved61 : Statement .reserved61 := ⟨rfl, rfl⟩
theorem reserved62 : Statement .reserved62 := ⟨rfl, rfl⟩
theorem reserved63 : Statement .reserved63 := ⟨rfl, rfl⟩
theorem nonGraphics : Statement .nonGraphics := ⟨rfl, rfl⟩

end Sys2Proof.Laws.EncodesKey
end

