-- ==== Sys2Proof/Laws/Step.lean ====
section
/-! SUPPORT. What a step can do, phase by phase, what the ports then show, and how a watched run splits. -/
namespace Sys2Proof.Machine

theorem nextEdge_cons {s : State} {e : PortInputs} {es : List PortInputs} (h : s.edges = e :: es) : nextEdge s = e := by
  rw [nextEdge, h, List.headD_cons]

theorem step_of_rst {s : State} (h : (nextEdge s).rst = true) : step s = .next (resetBlock (sampleEdge s)) := by
  rw [step, if_pos h]

theorem step_of_idle {s : State} (h : (nextEdge s).rst = false) (hp : s.phase = .idle) :
    step s = .next (acceptEdge (nextEdge s) (sampleEdge s)) := by
  simp [step, h, hp]

theorem step_of_apply {s : State} {rec : Record} (h : (nextEdge s).rst = false) (hp : s.phase = .apply rec) :
    step s = finishRecord (exec (decode rec) (sampleEdge s)) := by
  simp [step, h, hp, fetch]

theorem step_of_render {s : State} {scale p : Nat} {order : ByteOrder} (h : (nextEdge s).rst = false)
    (hp : s.phase = .render scale order p) : step s = .next (renderEdge (nextEdge s) scale order p (sampleEdge s)) := by
  simp [step, h, hp]

/-- Everything a step can do: a reset; at rest, taking what is offered; the effect of the decoded record; or one edge of a
render. -/
inductive StepEffect (s : State) : State → Prop where
  | reset (h : (nextEdge s).rst = true) : StepEffect s (resetBlock (sampleEdge s))
  | idle (h : (nextEdge s).rst = false) (hp : s.phase = .idle) : StepEffect s (acceptEdge (nextEdge s) (sampleEdge s))
  | apply (rec : Record) (u : State) (h : (nextEdge s).rst = false) (hp : s.phase = .apply rec)
      (hu : exec (decode rec) (sampleEdge s) = .next u) : StepEffect s (u.setPhase .idle)
  | render (scale : Nat) (order : ByteOrder) (p : Nat) (h : (nextEdge s).rst = false) (hp : s.phase = .render scale order p) :
      StepEffect s (renderEdge (nextEdge s) scale order p (sampleEdge s))

theorem effect_of_step {s t : State} (h : step s = .next t) : StepEffect s t := by
  cases hr : (nextEdge s).rst with
  | true =>
    rw [step_of_rst hr] at h
    cases h
    exact .reset hr
  | false =>
    cases hp : s.phase with
    | idle =>
      rw [step_of_idle hr hp] at h
      cases h
      exact .idle hr hp
    | apply rec =>
      rw [step_of_apply hr hp] at h
      obtain ⟨u, hu, rfl⟩ := finishRecord_eq_next.1 h
      exact .apply rec u hr hp hu
    | render scale order p =>
      rw [step_of_render hr hp] at h
      cases h
      exact .render scale order p hr hp

/-! ### The diagnostic port -/

@[simp] theorem outcomeDiag_next (s : State) : outcomeDiag (.next s) = s.diag := rfl

theorem reportedDiag_idle {s : State} (hp : s.phase = .idle) : reportedDiag s = none := by rw [reportedDiag, hp]

theorem reportedDiag_apply {s u : State} {rec : Record} (hp : s.phase = .apply rec)
    (hu : exec (decode rec) (sampleEdge s) = .next u) : reportedDiag s = u.diag := by
  simp [reportedDiag, hp, fetch, hu]

theorem reportedDiag_render {s : State} {scale p : Nat} {order : ByteOrder} (hp : s.phase = .render scale order p) :
    reportedDiag s = if scaleLegal scale then none else some { kind := .badScale, code := BitVec.ofNat 6 scale } := by
  simp [reportedDiag, hp]

theorem portOutputs_diag_of_rst (s : State) {e : PortInputs} (h : e.rst = true) : (portOutputs s e).diag = none := if_pos h

theorem portOutputs_diag (s : State) {e : PortInputs} (h : e.rst = false) : (portOutputs s e).diag = reportedDiag s := by
  simp [portOutputs, h]

/-! ### Watched runs -/

theorem watch_succ {s t : State} (h : step s = .next t) (n : Nat) (w : Seen) :
    watch (n + 1) s w = watch n t (seeEdge s w) := by
  simp [watch, h]

/-- A run of `m + n` edges is one of `m` edges and then one of `n`. -/
theorem watch_add {m : Nat} {s t : State} {w v : Seen} (h : watch m s w = .next (t, v)) (n : Nat) :
    watch (m + n) s w = watch n t v := by
  induction m generalizing s w with
  | zero => cases h; rw [Nat.zero_add]
  | succ m ih =>
    cases hs : step s with
    | next u =>
      rw [watch_succ hs] at h
      rw [Nat.add_right_comm, watch_succ hs, ih h]
    | fault r => simp [watch, hs] at h
    | refused r => simp [watch, hs] at h

end Sys2Proof.Machine
end

