-- ==== Sys2Proof/Tests/Slice0.lean ====
section
/-! SUPPORT. The model's own tests: words decoded, ill-formed terms refused, single steps on small states, and for every
statement with hypotheses a witness that meets them. Expected results are the spec's (95_test_vectors.md and the rules
named). -/
namespace Sys2Proof.Tests

open Sys2Proof Sys2Proof.Machine

/- One theorem after the other: waiting kernel evaluations would each hold a thread's stack. -/
set_option Elab.async false

def black : Rgb := { r := 0, g := 0, b := 0 }

/-- The next state, if there is one. -/
def after (o : Host.Outcome State Fault Refusal) : Option State :=
  match o with
  | .next s => some s
  | _ => none

/-- The first payload bytes of a record, the rest 0. -/
def bytes (l : List Nat) : Payload := Vector.ofFn fun k => BitVec.ofNat 8 (l.getD k.val 0)

/-- Some cells after an instruction. -/
def cellsAfter (i : Instr) (s : State) (at_ : List (Nat × Nat)) : Option (List Nat) :=
  (after (exec i s)).map fun t => at_.map fun c => (cell t c.1 c.2).toNat

/-- A state whose tile (0, 0) holds 5 in every cell, the rest 0. -/
def tileOfFives : State := { State.reset with fb := rectUpdate (tileRect 0 0) (fun _ _ _ => 5) [] }

/-! ### Well-formedness refuses -/

theorem test_wf_row_not_multiple : (Instr.tileBlock 0 0 13 0 (Vector.replicate 12 0)).wf = false := by decide
theorem test_wf_row_too_large : (Instr.tileBlockXor 0 0 384 0 (Vector.replicate 12 0)).wf = false := by decide
theorem test_wf_column_not_multiple : (Instr.tileBlock 0 0 0 7 (Vector.replicate 12 0)).wf = false := by decide
theorem test_wf_column_too_large : (Instr.tileBlockXor 0 0 0 384 (Vector.replicate 12 0)).wf = false := by decide
theorem test_wf_channel : (Instr.loadColorTableLow (Vector.replicate 8 { r := 0, g := 16, b := 0 })).wf = false := by decide
theorem test_wf_last_entry :
    (Instr.loadColorTableHigh #v[black, black, black, black, black, black, black, { r := 254, g := 0, b := 0 }]).wf = false := by
  decide

/-! ### Decoding: one word per row of the opcode table (R75), written from the rule's codes -/

def rowWords0 : List (Nat × Instr) :=
  [(0x0900, .nop), (0x0901, (.memoryPreset 0 0)), (0x0902, (.borderPreset 0)), (0x0903, .reserved3),
   (0x0904, .reserved4), (0x0905, .reserved5), (0x0906, (.tileBlock 0 0 0 0 (Vector.replicate 12 0))), (0x0907, .reserved7),
   (0x0908, .reserved8), (0x0909, .reserved9), (0x090A, .reserved10), (0x090B, .reserved11),
   (0x090C, .reserved12), (0x090D, .reserved13), (0x090E, .reserved14), (0x090F, .reserved15)]

def rowWords1 : List (Nat × Instr) :=
  [(0x0910, .reserved16), (0x0911, .reserved17), (0x0912, .reserved18), (0x0913, .reserved19),
   (0x0914, .scrollPreset), (0x0915, .reserved21), (0x0916, .reserved22), (0x0917, .reserved23),
   (0x0918, .scrollCopy), (0x0919, .reserved25), (0x091A, .reserved26), (0x091B, .reserved27),
   (0x091C, .defineTransparentColor), (0x091D, .reserved29), (0x091E, (.loadColorTableLow (Vector.replicate 8 black))), (0x091F, (.loadColorTableHigh (Vector.replicate 8 black)))]

def rowWords2 : List (Nat × Instr) :=
  [(0x0920, .reserved32), (0x0921, .reserved33), (0x0922, .reserved34), (0x0923, .reserved35),
   (0x0924, .reserved36), (0x0925, .reserved37), (0x0926, (.tileBlockXor 0 0 0 0 (Vector.replicate 12 0))), (0x0927, .reserved39),
   (0x0928, .reserved40), (0x0929, .reserved41), (0x092A, .reserved42), (0x092B, .reserved43),
   (0x092C, .reserved44), (0x092D, .reserved45), (0x092E, .reserved46), (0x092F, .reserved47)]

def rowWords3 : List (Nat × Instr) :=
  [(0x0930, .reserved48), (0x0931, .reserved49), (0x0932, .reserved50), (0x0933, .reserved51),
   (0x0934, .reserved52), (0x0935, .reserved53), (0x0936, .reserved54), (0x0937, .reserved55),
   (0x0938, .reserved56), (0x0939, .reserved57), (0x093A, .reserved58), (0x093B, .reserved59),
   (0x093C, .reserved60), (0x093D, .reserved61), (0x093E, .reserved62), (0x093F, .reserved63)]

def otherWords : List (Nat × Instr) :=
  [(0x0800, .nonGraphics), (0x0A05, .nonGraphics), (0x3F3F, .nonGraphics),
   (0x4981, .memoryPreset 0 0), (0xC902, .borderPreset 0)]

def decodesAll (l : List (Nat × Instr)) : Bool := l.all fun p => decodeTableWord 16 p.1 == some p.2

theorem test_decode_rows : decodesAll rowWords0 = true ∧ decodesAll rowWords1 = true ∧ decodesAll rowWords2 = true ∧
    decodesAll rowWords3 = true ∧ decodesAll otherWords = true := by decide +kernel

/-- R76 to R80 with payload bytes: MP-3, BP-2, R108, DEC-13, CT-1, CT-2. -/
theorem test_decode_memoryPreset : decode (makeRecord 0x09 0x01 (bytes [0x13, 0x1F])) = .memoryPreset 3 15 := by decide +kernel
theorem test_decode_borderPreset : decode (makeRecord 0x09 0x02 (bytes [0xF2])) = .borderPreset 2 := by decide +kernel
theorem test_decode_tileBlock : decode (makeRecord 0x09 0x06 (bytes [0xF3, 0xA7, 0x25, 0x4A, 0x21, 0, 0, 0, 0, 0, 0, 0, 0, 0, 0, 0xC1])) =
    .tileBlock 3 7 60 60 #v[0x21, 0, 0, 0, 0, 0, 0, 0, 0, 0, 0, 0xC1] := by decide +kernel
theorem test_decode_tileBlockXor : decode (makeRecord 0x09 0x26 (bytes [0x12, 0x34, 0xFF, 0xFF])) =
    .tileBlockXor 2 4 372 378 (Vector.replicate 12 0) := by decide +kernel
theorem test_decode_loadLow : decode (makeRecord 0x09 0x1E (bytes [0x3C, 0x00])) =
    .loadColorTableLow #v[{ r := 255, g := 0, b := 0 }, black, black, black, black, black, black, black] := by decide +kernel
theorem test_decode_loadHigh : decode (makeRecord 0x09 0x1F (bytes [0x03, 0x30, 0x00, 0x0F])) =
    .loadColorTableHigh #v[{ r := 0, g := 255, b := 0 }, { r := 0, g := 0, b := 255 }, black, black, black, black, black,
      black] := by decide +kernel
theorem test_decode_bytes_rejects : decodeBytes [9, 1] = .error (.notOneRecord 2) := rfl

/-- Q-4 and Q-8 (green order). -/
theorem test_quantize : quantize 0x15 0x2A = { r := 85, g := 102, b := 170 } ∧ quantize 0x02 0x10 = { r := 0, g := 153, b := 0 } := by
  decide

/-- The encoder writes the bytes of program P2's fourth record and of OOB-3. -/
theorem test_encode : encode (.loadColorTableHigh #v[black, { r := 0, g := 153, b := 0 }, black, black, black, black, black, black]) =
      makeRecord 0x09 0x1F (bytes [0, 0, 0x02, 0x10]) ∧
    encode (.tileBlock 1 2 372 378 (Vector.replicate 12 0xFF)) =
      makeRecord 0x09 0x06 (bytes ([1, 2, 31, 63] ++ List.replicate 12 255)) := by decide +kernel

/-- The port's lanes (R32): byte 0 in bits 7:0, byte 23 in bits 191:184. -/
theorem test_record_lanes : (recordOfData 0x09)[0] = 0x09 ∧ (recordOfData (0xAB#192 <<< 184))[23] = 0xAB := by decide +kernel

/-! ### Instructions -/

theorem test_nop : after (exec .nop tileOfFives) = some tileOfFives := by decide +kernel
theorem test_nonGraphics : after (exec .nonGraphics tileOfFives) = some tileOfFives := by decide +kernel

/-- MP-1 and MP-4, in the first cells. -/
theorem test_memoryPreset : cellsAfter (.memoryPreset 10 0) tileOfFives [(0, 0), (0, 6)] = some [10, 10] := by decide +kernel
theorem test_memoryPreset_repeat : after (exec (.memoryPreset 10 15) tileOfFives) = some tileOfFives := by decide +kernel

/-- BP-1: the top row, and the rows that are not painted. -/
theorem test_borderPreset : cellsAfter (.borderPreset 2) State.reset [(0, 0), (0, 299)] = some [2, 2] := by decide +kernel
theorem test_border_regions : (leftBorder.top + leftBorder.height, rightBorder.left + rightBorder.width,
    (rectAddrs topBorder).length + (rectAddrs leftBorder).length + (rectAddrs rightBorder).length) = (204, 300, 5904) := by
  decide +kernel

/-- TB-1 and TB-5. -/
theorem test_tileBlock : cellsAfter (.tileBlock 3 7 60 60 #v[0x21, 0, 0, 0, 0, 0, 0, 0, 0, 0, 0, 0]) State.reset
    [(60, 60), (60, 61), (60, 64), (60, 65), (61, 60), (71, 65), (60, 66), (72, 60)] = some [7, 3, 3, 7, 3, 3, 0, 0] := by
  decide +kernel
theorem test_tileBlock_last : cellsAfter (.tileBlock 9 8 204 294 #v[0x20, 1, 0x20, 1, 0x20, 1, 0x20, 1, 0x20, 1, 0x20, 1]) State.reset
    [(204, 294), (204, 295), (205, 294), (215, 299)] = some [8, 9, 9, 8] := by decide +kernel

/-- TX-1 and TX-2. -/
theorem test_tileBlockXor : cellsAfter (.tileBlockXor 1 2 0 0 (Vector.replicate 12 0x2A)) tileOfFives
    [(0, 0), (0, 1), (11, 4), (11, 5), (0, 6)] = some [7, 4, 7, 4, 0] := by decide +kernel
theorem test_tileBlockXor_twice : ((after (exec (.tileBlockXor 1 2 0 0 (Vector.replicate 12 0x2A)) tileOfFives)).bind fun t =>
    after (exec (.tileBlockXor 1 2 0 0 (Vector.replicate 12 0x2A)) t)) = some tileOfFives := by decide +kernel

/-- OOB-1 and OOB-2. -/
theorem test_tileBlock_outside : after (exec (.tileBlock 4 4 216 0 (Vector.replicate 12 0xFF)) State.reset) =
    some { State.reset with status := 0x04, diag := some { kind := .tileOob, code := 6 } } := by decide +kernel
theorem test_tileBlockXor_outside : after (exec (.tileBlockXor 1 1 0 300 (Vector.replicate 12 0xFF)) State.reset) =
    some { State.reset with status := 0x04, diag := some { kind := .tileOob, code := 38 } } := by decide +kernel

/-- CT-1 and CT-2: the ends of each half. -/
theorem test_loadLow : (after (exec (.loadColorTableLow #v[{ r := 255, g := 0, b := 0 }, black, black, black, black, black, black,
    { r := 17, g := 34, b := 51 }]) State.reset)).map (fun t => (t.ct[0], t.ct[7], t.ct[8])) =
      some ({ r := 255, g := 0, b := 0, a := 255 }, { r := 17, g := 34, b := 51, a := 255 }, { r := 0, g := 0, b := 0, a := 0 }) := by
  decide +kernel
theorem test_loadHigh : (after (exec (.loadColorTableHigh #v[{ r := 0, g := 255, b := 0 }, black, black, black, black, black, black,
    { r := 17, g := 34, b := 51 }]) State.reset)).map (fun t => (t.ct[7], t.ct[8], t.ct[15])) =
      some ({ r := 0, g := 0, b := 0, a := 0 }, { r := 0, g := 255, b := 0, a := 255 }, { r := 17, g := 34, b := 51, a := 255 }) := by
  decide +kernel

/-- DEC-5 and L1-10. -/
theorem test_scrollPreset : after (exec .scrollPreset State.reset) =
    some { State.reset with status := 0x01, diag := some { kind := .unknownInstr, code := 20 } } := by decide +kernel
theorem test_reserved63 : after (exec .reserved63 State.reset) =
    some { State.reset with status := 0x01, diag := some { kind := .unknownInstr, code := 63 } } := by decide +kernel

/-! ### Steps, ports, rendering -/

/-- A table word runs at the next step, also when the host has announced a reset. -/
theorem test_fetch_word : after (step ({ State.reset with edges := [resetEdge] }.withFetchWord 16 0x0905)) =
    some { State.reset with edges := [resetEdge], status := 0x01, diag := some { kind := .unknownInstr, code := 5 } } := by
  decide +kernel

/-- RS-1 and RS-2. -/
theorem test_reset_during_record : after (step { tileOfFives with status := 0x0F, phase := .apply (encode .nop), edges := [resetEdge] }) =
    some State.reset := by decide +kernel
theorem test_record_before_render : (after (step { State.reset with
    edges := [{ recordEdge (dataOfRecord (encode .scrollCopy)) with rndValid := true, rndScale := 1 }] })).map (·.phase) =
      some (.apply (encode .scrollCopy)) := by decide +kernel

/-- What a host sees in `n` edges. -/
def seenIn (n : Nat) (s : State) : Option Seen :=
  match watch n s Seen.nothing with
  | .next (_, w) => some w
  | _ => none

/-- R212, R241: a reset right after the transaction drops no diagnostic; a reset before it completes does, with the rest. -/
theorem test_diag_before_reset : (seenIn 2 { State.reset with phase := .apply (encode .scrollCopy), edges := [.quiet, resetEdge] }).map (·.diags) =
    some [{ kind := .unknownInstr, code := 24 }] := by decide +kernel
theorem test_diag_abandoned : (seenIn 2 { State.reset with phase := .apply (encode .scrollCopy), edges := [resetEdge, .quiet] }).map (·.diags) =
    some [] := by decide +kernel

/-- R-5, R-6, R-9. -/
def oneCell : State := { State.reset with fb := [(302, 3)], ct := State.reset.ct.set 3 { r := 17, g := 34, b := 51, a := 0 } }

theorem test_out_pixel : outPixel oneCell 2 .rgb 2 4 = #v[0x11, 0x22, 0x33, 0xFF] ∧ outPixel oneCell 2 .bgr 3 5 = #v[0x33, 0x22, 0x11, 0xFF] ∧
    outPixel oneCell 2 .rgb 2 6 = #v[0, 0, 0, 0xFF] := by decide +kernel
theorem test_clamp : lut (State.reset.ct.set 15 { r := 1, g := 2, b := 3, a := 4 }) 16 = { r := 1, g := 2, b := 3 } := by decide +kernel
theorem test_out_word : outData oneCell 2 .rgb (600 * 2 + 4) = 0xFF332211#32 := by decide +kernel

/-- R-4. -/
theorem test_render_scale_zero : after (step { State.reset with phase := .render 0 .rgb 0 }) =
    some { State.reset with status := 0x08, diag := some { kind := .badScale, code := 0 } } := by decide +kernel

/-- R126's example is unreachable; here on the bus itself. -/
theorem test_unknown_tag : after (applyBus { idleBus with tag := 7 } State.reset) =
    some { State.reset with status := 0x02, diag := some { kind := .unknownTag, code := 7 } } := by decide +kernel

/-! ### Witnesses: for each statement with hypotheses, a case that meets them, at the ends of each clause -/

/-- A record of command 9 with every other bit that no rule names set. -/
def noisyRecord (code : Byte) (l : List Nat) : Record := makeRecord 0xC9 (code ||| 0xC0) (bytes l)

theorem witness_NonGraphicsRecordDoesNothing : commandCode (makeRecord 0x08 0x01 (bytes [5])) ≠ 9 ∧
    commandCode (makeRecord 0x0A 0x05 emptyPayload) ≠ 9 := by decide
theorem witness_codes : commandCode (noisyRecord 0 []) = 9 ∧ instrCode (noisyRecord 0 []) = 0 ∧ instrCode (noisyRecord 20 []) = 20 ∧
    instrCode (noisyRecord 24 []) = 24 ∧ instrCode (noisyRecord 28 []) = 28 ∧ instrCode (noisyRecord 3 []) = 3 ∧
    instrCode (noisyRecord 63 []) = 63 := by decide
theorem witness_PresetFieldsAreMaskedPayload : commandCode (noisyRecord 1 [255, 16]) = 9 ∧ instrCode (noisyRecord 1 [255, 16]) = 1 ∧
    commandCode (noisyRecord 2 [255]) = 9 ∧ instrCode (noisyRecord 2 [255]) = 2 := by decide
theorem witness_TileFieldsAreMaskedPayload : commandCode (noisyRecord 6 [255, 255, 255, 255]) = 9 ∧
    instrCode (noisyRecord 6 [255, 255, 255, 255]) = 6 ∧ instrCode (noisyRecord 38 []) = 38 := by decide
theorem witness_ColorEntriesByWireBits : commandCode (noisyRecord 30 [255, 255]) = 9 ∧ instrCode (noisyRecord 30 [255, 255]) = 30 ∧
    instrCode (noisyRecord 31 [1]) = 31 := by decide
theorem witness_DecodeReadsBackEncode : (Instr.tileBlockXor 15 1 372 378 (Vector.replicate 12 0xFF)).wf = true ∧
    (Instr.loadColorTableHigh (Vector.replicate 8 { r := 255, g := 17, b := 0 })).wf = true ∧ Instr.nonGraphics.wf = true := by
  decide
theorem witness_EncodeRestoresNamedBits : commandCode (noisyRecord 38 [255, 255, 255, 255, 255]) = 9 := by decide
theorem witness_OnlyNamedBitsDecide : commandCode (noisyRecord 2 [255]) = 9 ∧ commandCode (noisyRecord 2 [15]) = 9 ∧
    namedBits (noisyRecord 2 [255]) = namedBits (noisyRecord 2 [15]) ∧ noisyRecord 2 [255] ≠ noisyRecord 2 [15] ∧
    namedBits (noisyRecord 2 [255]) ≠ namedBits (noisyRecord 2 [14]) := by decide +kernel
theorem witness_DecodeFollowsOpcodeTable : nonGraphicsRow ∈ opcodeTable ∧ rowMatches nonGraphicsRow (decodeKey (encode .nonGraphics)) = true ∧
    graphicsRow "RESERVED_63" 63 ∈ opcodeTable ∧ rowMatches (graphicsRow "RESERVED_63" 63) (decodeKey (noisyRecord 63 [])) = true := by
  decide +kernel
theorem witness_UnknownCodesReportedExactly : State.reset.diag = none ∧ commandCode (noisyRecord 28 []) = 9 ∧
    instrCode (noisyRecord 28 []) ∉ [0, 1, 2, 6, 30, 31, 38] ∧ instrCode (noisyRecord 38 []) ∈ [0, 1, 2, 6, 30, 31, 38] := by decide

/-- A memory with its first and its last cell listed. -/
def edgeCells : State := { State.reset with fb := [(0, 15), (64799, 1)] }

theorem witness_memoryWf : memoryWf edgeCells.fb = true ∧ memoryWf tileOfFives.fb = true := by decide +kernel
theorem witness_MemoryPresetFillsOnRepeatZero : memoryWf edgeCells.fb = true ∧ (1 : Nibble) ≠ 0 ∧ (15 : Nibble) ≠ 0 := by decide
theorem witness_BorderPresetPaintsTopAndSides : memoryWf edgeCells.fb = true ∧ 215 < 216 ∧ 299 < 300 := by decide
theorem witness_TileBlockOverwritesItsTile : memoryWf edgeCells.fb = true ∧ (204 + 12 ≤ 216 ∧ 294 + 6 ≤ 300) ∧ 216 + 12 > 216 ∧
    300 + 6 > 300 ∧ ¬(204 ≤ 203 ∧ 203 < 204 + 12 ∧ 294 ≤ 294 ∧ 294 < 294 + 6) := by decide
theorem witness_TileBlockXorCombinesItsTile : memoryWf tileOfFives.fb = true ∧ (0 + 12 ≤ 216 ∧ 0 + 6 ≤ 300) ∧ 205 + 12 > 216 ∧
    295 + 6 > 300 := by decide +kernel
theorem witness_TileIndexDecidesOutOfRange : commandCode (noisyRecord 6 [1, 2, 17, 49]) = 9 ∧ instrCode (noisyRecord 6 [1, 2, 17, 49]) = 6 ∧
    (payload (noisyRecord 6 [1, 2, 17, 49]) 2 &&& 0x1F).toNat < 18 ∧ (payload (noisyRecord 6 [1, 2, 17, 49]) 3 &&& 0x3F).toNat < 50 ∧
    18 ≤ (payload (noisyRecord 38 [1, 2, 18, 0]) 2 &&& 0x1F).toNat ∧ 50 ≤ (payload (noisyRecord 38 [1, 2, 0, 50]) 3 &&& 0x3F).toNat ∧
    instrCode (noisyRecord 38 [1, 2, 18, 0]) = 38 := by decide +kernel
theorem witness_UnknownTagOnlyReports : ({ idleBus with tag := 7, color0 := 3 } : Bus).tag = 7 := by decide
theorem witness_DiagnosticSkipsTheEffect : State.reset.diag = none ∧
    (after (exec (.tileBlock 1 2 216 0 (Vector.replicate 12 0)) State.reset)).bind (·.diag) = some { kind := .tileOob, code := 6 } ∧
    (after (exec .reserved3 State.reset)).bind (·.diag) = some { kind := .unknownInstr, code := 3 } := by decide +kernel
theorem witness_AllButXorAreIdempotent : memoryWf edgeCells.fb = true ∧
    ∀ color0 color1 row column bitmap, Instr.borderPreset 2 ≠ .tileBlockXor color0 color1 row column bitmap :=
  ⟨by decide, by intro _ _ _ _ _ h; cases h⟩
theorem witness_OnlyWritersWrite :
    (after (exec (.tileBlock 1 2 0 0 (Vector.replicate 12 0)) State.reset)).map (fun t => decide (t.fb ≠ State.reset.fb)) = some true ∧
    (after (exec (.loadColorTableLow (Vector.replicate 8 black)) State.reset)).map (fun t => decide (t.ct ≠ State.reset.ct)) = some true := by
  decide +kernel
theorem witness_LoadRecolorsWithoutPixelWrite : (cell oneCell 1 2).toNat < 8 ∧ (cell { oneCell with fb := [(302, 7)] } 1 2).toNat < 8 ∧
    (cell { oneCell with fb := [(302, 8)] } 1 2).toNat = 8 + (0 : Fin 8).val ∧
    (cell { oneCell with fb := [(302, 15)] } 1 2).toNat = 8 + (7 : Fin 8).val := by decide

/-- A record being applied while the host drives a quiet edge. -/
def applying : State := { State.reset with phase := .apply (encode .scrollCopy), edges := [.quiet] }

theorem witness_StepRunsTheDecodedRecord : applying.phase = .apply (encode .scrollCopy) ∧ (nextEdge applying).rst = false ∧
    decode (encode .scrollCopy) = .scrollCopy := by decide +kernel
theorem witness_ResetAtAnyEdge : (nextEdge { applying with edges := [resetEdge] }).rst = true := by decide

/-- An idle block and the next edge. -/
def idleWith (e : PortInputs) : State := { State.reset with edges := [e] }

theorem witness_IdleAcceptsRecordFirst : (idleWith .quiet).phase = .idle ∧ (nextEdge (idleWith (recordEdge 9))).rst = false ∧
    (nextEdge (idleWith { recordEdge 9 with rndValid := true })).recValid = true ∧
    (nextEdge (idleWith (renderRequestEdge 1 .bgr))).recValid = false ∧
    (nextEdge (idleWith (renderRequestEdge 1 .bgr))).rndValid = true ∧ (nextEdge (idleWith .quiet)).rndValid = false := by decide
theorem witness_ResetSilencesThePorts : resetEdge.rst = true := by decide

theorem one_le_maxScale : 1 ≤ Config.maxScale := Nat.le_add_left 1 _
theorem scaleLegal_one : scaleLegal 1 = true := by simp [scaleLegal, scaleWithin, one_le_maxScale]
theorem scaleLegal_max : scaleLegal Config.maxScale = true := by simp [scaleLegal, scaleWithin, one_le_maxScale]

/-- A render in progress and the next edge. -/
def rendering (scale p : Nat) (e : PortInputs) : State := { State.reset with phase := .render scale .rgb p, edges := [e] }

theorem witness_RenderHandsOverWordByWord : (rendering 1 0 takeEdge).phase = .render 1 .rgb 0 ∧ 1 ≤ 1 ∧ 1 ≤ Config.maxScale ∧
    (nextEdge (rendering 1 0 takeEdge)).rst = false ∧ (nextEdge (rendering 1 0 .quiet)).outReady = false ∧
    (nextEdge (rendering 1 64798 takeEdge)).outReady = true ∧ 64798 + 1 ≠ 1 ^ 2 * 64800 ∧ 64799 + 1 = 1 ^ 2 * 64800 := by
  refine ⟨rfl, by decide, one_le_maxScale, ?_⟩; decide
theorem witness_IllegalScaleOnlyReports : (rendering 0 0 .quiet).phase = .render 0 .rgb 0 ∧ 0 < 1 ∧ Config.maxScale < Config.maxScale + 1 ∧
    (nextEdge (rendering 0 0 .quiet)).rst = false := ⟨rfl, by decide, Nat.lt_succ_self _, rfl⟩
theorem witness_StatusGainsOnlyTheRaisedBit : (nextEdge applying).rst = false ∧
    after (step { applying with edges := [resetEdge] }) = some State.reset ∧
    (after (step applying)).map (fun t => (t.status, t.diag)) = some (0x01, some { kind := .unknownInstr, code := 24 }) ∧
    (after (step (idleWith .quiet))).map (fun t => (t.status, t.diag)) = some (0x00, none) := by decide +kernel
theorem witness_DutifulHostNeverSetsBadScale : (∀ e ∈ (rendering 1 0 (renderRequestEdge 1 .rgb)).edges, hostDuty e = true) ∧
    (∀ scale order p, (rendering 1 0 (renderRequestEdge 1 .rgb)).phase = .render scale order p → scaleLegal scale = true) ∧
    stickySet .badScale (rendering 1 0 (renderRequestEdge 1 .rgb)).status = false ∧
    ∃ t, step (rendering 1 0 (renderRequestEdge 1 .rgb)) = .next t :=
  ⟨by simp [rendering, hostDuty, renderRequestEdge, scaleLegal_one],
    by rintro _ _ _ h; cases h; exact scaleLegal_one, by decide, _, rfl⟩
theorem witness_LegalRenderOnlyReads : 1 ≤ Config.maxScale ∧ Config.maxScale ≤ Config.maxScale ∧
    (rendering 1 0 takeEdge).phase = .render 1 .rgb 0 ∧ (nextEdge (rendering 1 0 takeEdge)).rst = false :=
  ⟨one_le_maxScale, le_rfl, rfl, rfl⟩
theorem witness_LookupClampsToFifteen : (15 : Byte).toNat < 16 ∧ 16 ≤ (16 : Byte).toNat ∧ 16 ≤ (255 : Byte).toNat := by decide
theorem witness_SourceCellFillsItsBlock : 215 < 216 ∧ 299 < 300 ∧ 2 < 3 := by decide
theorem witness_RowCopiesGiveTheComposite : memoryWf oneCell.fb = true := by decide
theorem witness_ScaleOneIsLinearOrder : 0 < 64800 ∧ 64799 < 64800 := by decide

/-- R190's table: entry 3 is (10, 20, 30), which no record can load (C3). -/
def workedCell : State := { oneCell with ct := State.reset.ct.set 3 { r := 10, g := 20, b := 30, a := 0 } }

theorem witness_WorkedRenderExample : 1 < 216 ∧ 2 < 300 ∧ (cell workedCell 1 2).toNat = (3 : Fin 16).val ∧ workedCell.ct[(3 : Fin 16)].r = 10 ∧
    workedCell.ct[(3 : Fin 16)].g = 20 ∧ workedCell.ct[(3 : Fin 16)].b = 30 := by decide +kernel
theorem witness_BackPressureOnlyDelays : scaleLegal 1 = true ∧ 1 ≤ (rendering 1 64798 takeEdge).edges.length ∧
    (∀ e ∈ (rendering 1 64798 takeEdge).edges.take 1, e.rst = false) ∧ (rendering 1 64798 takeEdge).diag = none ∧
    64798 + ((rendering 1 64798 takeEdge).edges.take 1).countP (·.outReady) < outWords 1 :=
  ⟨scaleLegal_one, by decide⟩
/-- A render accepted, and a host that stalls once, offers a record meanwhile, and takes every word. -/
def taking (n : Nat) : State :=
  { State.reset with phase := .render 1 .bgr 0, edges := (recordEdge 9 :: List.replicate n takeEdge) ++ takeEdge :: [.quiet] }

theorem outWords_one : 64799 + 1 = outWords 1 := rfl

theorem takesWords_replicate (n : Nat) : takesWords n (List.replicate n takeEdge) :=
  ⟨fun e he => by rw [List.eq_of_mem_replicate he]; rfl, by rw [List.countP_replicate]; rfl⟩

theorem takesWords_stall {n : Nat} {es : List PortInputs} (h : takesWords n es) (data : BitVec 192) :
    takesWords n (recordEdge data :: es) :=
  ⟨fun e he => by rcases List.mem_cons.1 he with rfl | he; exacts [rfl, h.1 e he],
    by rw [List.countP_cons_of_neg Bool.false_ne_true]; exact h.2⟩

theorem witness_RenderDeliversTheComposite : (taking 64799).phase = .render 1 .bgr 0 ∧ scaleLegal 1 = true ∧
    Seen.nothing.current = [] ∧ takesWords 64799 (recordEdge 9 :: List.replicate 64799 takeEdge) ∧ 64799 + 1 = outWords 1 ∧
    takeEdge.rst = false ∧ takeEdge.outReady = true := by
  exact ⟨by simp only [taking], scaleLegal_one, rfl, takesWords_stall (takesWords_replicate _) 9, outWords_one, rfl, rfl⟩

theorem outWords_pos {scale : Nat} (h : scaleLegal scale = true) : 0 < outWords scale := by
  have h1 : 1 ≤ scale := by
    simp only [scaleLegal, scaleWithin, Bool.and_eq_true, decide_eq_true_eq] at h
    exact h.1
  exact Nat.mul_pos (Nat.pow_pos h1) (by decide)

/-- The schedule without waits carries any transactions out: the hypothesis of `PortsRefineTransactions` can always be met. -/
theorem carried_edgesOf (ts : List Transaction) : Carried ts (ts.flatMap edgesOf) := by
  induction ts with
  | nil => exact .done
  | cons t ts ih =>
    rw [List.flatMap_cons]
    cases t with
    | reset => exact .reset rfl ih
    | record rec => exact .record ⟨rfl, rfl, recordOfData_dataOfRecord rec⟩ rfl ih
    | render scale order =>
      have hreq : requestsRender scale order (renderRequestEdge scale order) := ⟨rfl, rfl, rfl, rfl, by cases order <;> rfl⟩
      cases hl : scaleLegal scale with
      | true =>
        obtain ⟨n, hn⟩ : ∃ n, n + 1 = outWords scale := ⟨outWords scale - 1, Nat.sub_add_cancel (outWords_pos hl)⟩
        have h := Carried.render hreq hl (takesWords_replicate n) hn (last := takeEdge) rfl rfl ih
        rw [List.append_cons, ← List.replicate_succ', hn, ← List.cons_append] at h
        rwa [edgesOf, if_pos hl]
      | false => simpa [edgesOf, hl] using Carried.illegal (e' := .quiet) hreq hl rfl ih

/-- An idle block and a host about to carry transactions out. -/
def carrying (ts : List Transaction) : State := { State.reset with edges := ts.flatMap edgesOf }

theorem witness_PortsRefineTransactions (ts : List Transaction) : (carrying ts).phase = .idle ∧
    Seen.nothing.current = [] ∧ Carried ts (carrying ts).edges := ⟨rfl, rfl, carried_edgesOf ts⟩

/-- A wait, a record with a render request beside it and another record offered while it is applied, and a record cut short. -/
theorem witness_carried_freely : Carried [.record (recordOfData 9), .reset]
    [.quiet, { recordEdge 9 with rndValid := true }, recordEdge 5, recordEdge 7, resetEdge] :=
  .wait rfl rfl rfl (.record ⟨rfl, rfl, rfl⟩ rfl (.recordCut (rec := recordOfData 7) ⟨rfl, rfl, rfl⟩ rfl .done))
theorem witness_StepKeepsInvariant : Inv edgeCells ∧ ∃ t, step edgeCells = .next t :=
  ⟨{ memory := by decide
     cells := fun y x => by
       show (memRead [(0, 15), (64799, 1)] (cellAddr y x)).toNat < 16
       simp only [memRead_cons, memRead_nil, unlistedCell]
       split_ifs <;> decide
     colors := by decide
     reservedBits := by decide
     noUnknownTag := by decide
     noTagDiag := by intro _ h; cases h
     wordsLeft := by intro _ _ _ h; cases h
     scaleHeld := by intro _ _ _ h; cases h
     scaleDriven := by intro _ h; cases h }, _, rfl⟩

end Sys2Proof.Tests
end

section
/-! PROOFS. What an instruction and a port operation leave unchanged, and what they raise; then the invariant (R26, R29, R30,
R126, R34): every operation a step is made of keeps it. -/
namespace Sys2Proof

theorem wfEntries_iff {es : Vector Rgb 8} : wfEntries es = true ↔ ∀ (k : Nat) (hk : k < 8), wfRgb es[k] = true := by
  simp [wfEntries]

/-- Five bits times 12 and six bits times 6 (R79). -/
theorem wfRow_tileRow (rec : Record) : wfRow (tileRow rec) = true := by
  have := ((payload rec 2).extractLsb' 0 5).isLt
  rw [wfRow_iff, tileRow]
  omega

theorem wfColumn_tileColumn (rec : Record) : wfColumn (tileColumn rec) = true := by
  have := ((payload rec 3).extractLsb' 0 6).isLt
  rw [wfColumn_iff, tileColumn]
  omega

theorem wfEntries_clutEntries (rec : Record) : wfEntries (clutEntries rec) = true :=
  wfEntries_iff.2 fun k hk => by simp [clutEntries, wfRgb_quantize]

theorem decodeGraphics_wf (rec : Record) (code : Nat) : (decodeGraphics rec code).wf = true := by
  unfold decodeGraphics
  split
  case h_7 | h_39 => exact Bool.and_eq_true_iff.2 ⟨wfRow_tileRow rec, wfColumn_tileColumn rec⟩
  case h_31 | h_32 => exact wfEntries_clutEntries rec
  all_goals rfl

/-- Every record decodes to operands that R79 and R103 allow. -/
theorem decode_wf (rec : Record) : (decode rec).wf = true := by
  by_cases h : commandCode rec = 9
  · rw [decode_of_command h]
    exact decodeGraphics_wf rec _
  · rw [decode_of_not_command h]
    rfl

end Sys2Proof

namespace Sys2Proof.Machine

/-! ### What an instruction leaves unchanged -/

theorem ExecEffect.phase_eq {i : Instr} {s t : State} (e : ExecEffect i s t) : t.phase = s.phase := by cases e <;> rfl

theorem ExecEffect.edges_eq {i : Instr} {s t : State} (e : ExecEffect i s t) : t.edges = s.edges := by cases e <;> rfl

/-! ### Operations that keep the invariant -/

/-- A drawing that maps values below 16 to values below 16 keeps every cell below 16. -/
theorem memRead_rectUpdate_lt {q : Rect} (hq : rectInGrid q = true) {f : Nat → Nat → Byte → Byte}
    (hf : ∀ y x (v : Byte), v.toNat < 16 → (f y x v).toNat < 16) {m : Memory} (hm : memoryWf m = true)
    (hc : ∀ a, (memRead m a).toNat < 16) (a : Nat) : (memRead (rectUpdate q f m) a).toNat < 16 := by
  rw [memRead_rectUpdate (rectInGrid_iff.1 hq).2 f (rising_of_memoryWf hm)]
  split
  · exact hf _ _ _ (hc a)
  · exact hc a

theorem stickySet_unknownTag_setSticky {k : DiagKind} (hk : k ≠ .unknownTag) (v : BitVec 8) :
    stickySet .unknownTag (setSticky k v) = stickySet .unknownTag v := by
  simp [stickySet_setSticky, hk.symm]

/-- No kind sets a bit in 7:4 of `STATUS` (R30). -/
theorem reservedBits_setSticky (k : DiagKind) (v : BitVec 8) : (setSticky k v).extractLsb' 4 4 = v.extractLsb' 4 4 := by
  have hmask : (statusMask k).extractLsb' 4 4 = 0 := by cases k <;> rfl
  simp [setSticky, BitVec.extractLsb'_or, hmask]

theorem entryReachable_opaqueEntry {e : Rgb} (h : wfRgb e = true) : entryReachable (opaqueEntry e) = true := h

/-- A load of quantized colors keeps every entry loadable (R29). -/
theorem entryReachable_loadHalf (base : Nat) {es : Vector Rgb 8} {ct : Vector ColorEntry 16} (hes : wfEntries es = true)
    (hct : ∀ i : Fin 16, entryReachable ct[i] = true) (i : Fin 16) : entryReachable (loadHalf base es ct)[i] = true := by
  rw [Fin.getElem_fin, loadHalf_get base es ct i i.isLt]
  split
  · exact entryReachable_opaqueEntry (wfEntries_iff.1 hes _ _)
  · exact hct i

theorem scaleFits_quiet : scaleFits PortInputs.quiet.rndScale = true := by simp [scaleFits, PortInputs.quiet]

theorem scaleLegal_iff {scale : Nat} : scaleLegal scale = true ↔ 1 ≤ scale ∧ scale ≤ Config.maxScale := by
  simp [scaleLegal, scaleWithin]

theorem outWords_pos_of_legal {scale : Nat} (h : scaleLegal scale = true) : 0 < outWords scale :=
  Nat.mul_pos (Nat.pow_pos (scaleLegal_iff.1 h).1) (by decide)

namespace Inv

variable {s : State}

theorem memRead_lt (h : Inv s) (a : Nat) : (memRead s.fb a).toNat < 16 := by
  rw [← cell_eq_memRead]
  exact h.cells _ _

/-- The scale at the next edge came over the wires, also when the host has announced nothing. -/
theorem scaleFits_nextEdge (h : Inv s) : scaleFits (nextEdge s).rndScale = true := by
  cases hes : s.edges with
  | nil => simpa [nextEdge, hes] using scaleFits_quiet
  | cons e es =>
    rw [nextEdge_cons hes]
    exact h.scaleDriven e (by simp [hes])

theorem keep_setFb (h : Inv s) {m : Memory} (hm : memoryWf m = true) (hc : ∀ a, (memRead m a).toNat < 16) :
    Inv (s.setFb m) :=
  { h with memory := hm, cells := fun _ _ => hc _ }

theorem keep_rectUpdate (h : Inv s) {q : Rect} (hq : rectInGrid q = true) {f : Nat → Nat → Byte → Byte}
    (hf : ∀ y x (v : Byte), v.toNat < 16 → (f y x v).toNat < 16) : Inv (s.setFb (rectUpdate q f s.fb)) :=
  h.keep_setFb (memoryWf_rectUpdate hq f h.memory) (memRead_rectUpdate_lt hq hf h.memory h.memRead_lt)

theorem keep_borderFb (h : Inv s) (c : Nibble) : Inv (s.setFb (borderFb c s.fb)) := by
  have hf : ∀ (y x : Nat) (v : Byte), v.toNat < 16 → (zext8 c).toNat < 16 := fun _ _ _ _ => zext8_lt c
  exact ((h.keep_rectUpdate rectInGrid_topBorder hf).keep_rectUpdate rectInGrid_leftBorder hf).keep_rectUpdate
    rectInGrid_rightBorder hf

theorem keep_loadHalf (h : Inv s) (base : Nat) {es : Vector Rgb 8} (hes : wfEntries es = true) :
    Inv (s.setCt (loadHalf base es s.ct)) :=
  { h with colors := entryReachable_loadHalf base hes h.colors }

theorem keep_raiseDiag (h : Inv s) {k : DiagKind} (hk : k ≠ .unknownTag) (c : BitVec 6) : Inv (raiseDiag k c s) :=
  { h with
    reservedBits := (reservedBits_setSticky k s.status).trans h.reservedBits
    noUnknownTag := (stickySet_unknownTag_setSticky hk s.status).trans h.noUnknownTag
    noTagDiag := fun d hd => by cases hd; exact hk }

/-- Leaving a render or entering APPLY: the clauses about a render in progress say nothing. -/
theorem keep_setPhase (h : Inv s) {ph : Phase} (hp : ∀ scale order p, ph ≠ .render scale order p) : Inv (s.setPhase ph) :=
  { h with
    wordsLeft := fun _ _ _ he => absurd he (hp _ _ _)
    scaleHeld := fun _ _ _ he => absurd he (hp _ _ _) }

theorem keep_setPhase_render (h : Inv s) {scale p : Nat} (order : ByteOrder) (hf : scaleFits scale = true)
    (hw : scaleLegal scale = true → p < outWords scale) : Inv (s.setPhase (.render scale order p)) :=
  { h with
    wordsLeft := fun _ _ _ he => by cases he; exact hw
    scaleHeld := fun _ _ _ he => by cases he; exact hf }

theorem keep_sampleEdge (h : Inv s) : Inv (sampleEdge s) :=
  { h with
    noTagDiag := fun _ hd => nomatch hd
    scaleDriven := fun e he => h.scaleDriven e (List.mem_of_mem_tail he) }

theorem keep_resetBlock (h : Inv s) : Inv (resetBlock s) where
  memory := rfl
  cells _ _ := by simp [cell, unlistedCell]
  colors i := by simp [entryReachable, channelReachable]
  reservedBits := by simp
  noUnknownTag := by simp [stickySet]
  noTagDiag _ hd := nomatch hd
  wordsLeft _ _ _ hp := nomatch hp
  scaleHeld _ _ _ hp := nomatch hp
  scaleDriven := h.scaleDriven

/-- Every instruction that a record can carry keeps the invariant. -/
theorem keep_exec (h : Inv s) {i : Instr} {t : State} (hi : i.wf = true) (e : ExecEffect i s t) : Inv t := by
  cases e with
  | nothing => exact h
  | unknown code => exact h.keep_raiseDiag (by decide) code
  | outside code => exact h.keep_raiseDiag (by decide) code
  | loadLow es hes => subst hes; exact h.keep_loadHalf 0 hi
  | loadHigh es hes => subst hes; exact h.keep_loadHalf 8 hi
  | border c _ => exact h.keep_borderFb c
  | draw q f hq hf => exact h.keep_rectUpdate hq hf

theorem keep_acceptEdge (h : Inv s) {e : PortInputs} (he : scaleFits e.rndScale = true) : Inv (acceptEdge e s) := by
  unfold acceptEdge
  split
  · exact h.keep_setPhase nofun
  · split
    · exact h.keep_setPhase_render _ he outWords_pos_of_legal
    · exact h

theorem keep_renderEdge (h : Inv s) (e : PortInputs) {scale p : Nat} {order : ByteOrder}
    (hp : s.phase = .render scale order p) : Inv (renderEdge e scale order p s) := by
  unfold renderEdge
  split
  · next hl =>
    have hlt := h.wordsLeft _ _ _ hp hl
    split
    · split
      · exact h.keep_setPhase nofun
      · exact h.keep_setPhase_render order (h.scaleHeld _ _ _ hp) fun _ => by omega
    · exact h
  · exact (h.keep_raiseDiag (by decide) _).keep_setPhase nofun

end Inv

/-- Settles O60: a step samples its edge and then resets, accepts, applies a decoded record or serves a render, and each of
these keeps the invariant. -/
theorem stepKeepsInvariant : Obligations.StepKeepsInvariant := by
  intro s t h hstep
  have hs := h.keep_sampleEdge
  cases effect_of_step hstep with
  | reset _ => exact hs.keep_resetBlock
  | idle _ _ => exact hs.keep_acceptEdge h.scaleFits_nextEdge
  | apply rec u _ _ hu => exact (hs.keep_exec (decode_wf rec) (effect_of_exec hu)).keep_setPhase nofun
  | render scale order p _ hp => exact hs.keep_renderEdge _ hp

end Sys2Proof.Machine
end

section
/-! PROOFS. What one instruction may change (R24, R27, R38), what each kind of edge does (R32 to R37), and the diagnostic port
(R35, R211, R212). -/
namespace Sys2Proof.Machine

/-! ### Instructions -/

/-- A state of which phase and edges are as before differs at most in the four remaining fields. -/
theorem state_eq_of_host_unchanged {s t : State} (hp : t.phase = s.phase) (he : t.edges = s.edges) :
    t = { s with fb := t.fb, ct := t.ct, status := t.status, diag := t.diag } := by
  rw [← hp, ← he]

/-- Settles O30, from the inversion of `exec`: none of its effects changes the phase or the edges. -/
theorem recordsTouchOnlyTheBlocksState : Obligations.RecordsTouchOnlyTheBlocksState := by
  intro i s
  obtain ⟨t, ht, e⟩ := exec_effect i s
  exact ⟨t, ht, state_eq_of_host_unchanged e.phase_eq e.edges_eq⟩

/-- Every instruction but the four writers leaves the framebuffer (R24). -/
theorem fb_eq_or_writer {i : Instr} {s t : State} (h : exec i s = .next t) :
    t.fb = s.fb ∨ mnemonicOf i ∈ ["MEMORY_PRESET", "BORDER_PRESET", "TILE_BLOCK", "TILE_BLOCK_XOR"] := by
  cases i with
  | memoryPreset | borderPreset | tileBlock | tileBlockXor => exact .inr (by simp [mnemonicOf])
  | _ => cases h; exact .inl rfl

/-- Every instruction but the two loads leaves the color table (R27). -/
theorem ct_eq_or_load {i : Instr} {s t : State} (h : exec i s = .next t) :
    t.ct = s.ct ∨ mnemonicOf i ∈ ["LOAD_COLOR_TABLE_LOW", "LOAD_COLOR_TABLE_HIGH"] := by
  cases effect_of_exec h with
  | loadLow es hi | loadHigh es hi => subst hi; exact .inr (by simp [mnemonicOf])
  | nothing | unknown | outside | border | draw => exact .inl rfl

/-- Settles O33: an instruction that is no writer leaves the framebuffer, and one that is no load the color table. -/
theorem onlyWritersWrite : Obligations.OnlyWritersWrite := fun _ _ _ h =>
  ⟨(fb_eq_or_writer h).resolve_left, (ct_eq_or_load h).resolve_left⟩

/-- What an instruction does with diagnostics: none, and `STATUS` stays; or one, and `STATUS` gains its bit (R212). -/
theorem ExecEffect.diag_status {i : Instr} {s t : State} (e : ExecEffect i s t) :
    (t.diag = s.diag ∧ t.status = s.status) ∨ ∃ d : Diagnostic, t.diag = some d ∧ t.status = setSticky d.kind s.status := by
  cases e with
  | unknown | outside => exact .inr ⟨_, rfl, rfl⟩
  | nothing | loadLow | loadHigh | border | draw => exact .inl ⟨rfl, rfl⟩

/-! ### The step that applies a record -/

/-- In APPLY the decoded instruction runs at the state as the edge finds it, and always completes. -/
theorem step_runs_record {s : State} {rec : Record} (hr : (nextEdge s).rst = false) (hp : s.phase = .apply rec) :
    ∃ t, exec (decode rec) (sampleEdge s) = .next t ∧ step s = .next (t.setPhase .idle) := by
  obtain ⟨t, ht, -⟩ := exec_effect (decode rec) (sampleEdge s)
  exact ⟨t, ht, by rw [step_of_apply hr hp, ht, finishRecord_next]⟩

/-- Settles O34: the record's edge is `exec` at the sampled state. -/
theorem stepRunsTheDecodedRecord : Obligations.StepRunsTheDecodedRecord := by
  rintro s rec _ hp hr rfl
  exact step_runs_record hr hp

/-- Settles O35: the quiet edge that `holdRecord` places keeps an announced reset away from the record. -/
theorem fetchWordRunsNext : Obligations.FetchWordRunsNext := by
  intro s nbits w
  obtain ⟨t, ht, hstep⟩ := step_runs_record (s := s.withFetchWord nbits w) (rec := recordOfTableWord nbits w) rfl rfl
  exact ⟨t, ht, hstep⟩

/-! ### Edges in IDLE -/

/-- An offered record is accepted, whatever else is offered (D14). -/
theorem acceptEdge_of_record {e : PortInputs} {s : State} (hp : s.phase = .idle) (hr : e.rst = false)
    (hv : e.recValid = true) : acceptEdge e s = s.setPhase (.apply (recordOfData e.recData)) := by
  simp [acceptEdge, recReady, phaseIdle, hp, hr, hv]

theorem acceptEdge_of_request {e : PortInputs} {s : State} (hp : s.phase = .idle) (hr : e.rst = false)
    (hv : e.recValid = false) (hn : e.rndValid = true) :
    acceptEdge e s = s.setPhase (.render e.rndScale (orderOf e.rndOrder) 0) := by
  simp [acceptEdge, rndReady, phaseIdle, hp, hr, hv, hn]

theorem acceptEdge_of_nothing {e : PortInputs} (s : State) (hv : e.recValid = false) (hn : e.rndValid = false) :
    acceptEdge e s = s := by
  simp [acceptEdge, hv, hn]

/-- No edge in IDLE touches the diagnostic or `STATUS`. -/
theorem acceptEdge_diag (e : PortInputs) (s : State) : (acceptEdge e s).diag = s.diag := by
  unfold acceptEdge
  split_ifs <;> rfl

theorem acceptEdge_status (e : PortInputs) (s : State) : (acceptEdge e s).status = s.status := by
  unfold acceptEdge
  split_ifs <;> rfl

/-- Settles O37: the three cases of an edge in IDLE. -/
theorem idleAcceptsRecordFirst : Obligations.IdleAcceptsRecordFirst := by
  intro s hp hr
  have hs : (sampleEdge s).phase = .idle := hp
  rw [step_of_idle hr hp]
  refine ⟨fun hv => ?_, fun hv hn => ?_, fun hv hn => ?_⟩
  · rw [acceptEdge_of_record hs hr hv]; rfl
  · rw [acceptEdge_of_request hs hr hv hn]; rfl
  · rw [acceptEdge_of_nothing _ hv hn]; rfl

theorem phaseIdle_iff {ph : Phase} : phaseIdle ph = true ↔ ph = .idle := by cases ph <;> simp [phaseIdle]

/-- Settles O38, by the definition of the two ready outputs. -/
theorem readyOnlyWhenIdle : Obligations.ReadyOnlyWhenIdle := by
  intro s e
  simp [portOutputs, recReady, rndReady, phaseIdle_iff, and_assoc]

/-- Settles O39: `rst` gates each of the five outputs. -/
theorem resetSilencesThePorts : Obligations.ResetSilencesThePorts := by
  intro s e he
  simp [portOutputs, recReady, rndReady, he]

/-- Settles O40: the record is built lane by lane. -/
theorem recordBytesByLane : Obligations.RecordBytesByLane := by
  intro data k
  simp [recordOfData]

/-! ### Edges in RENDER -/

section
variable {e : PortInputs} {scale p : Nat} {order : ByteOrder}

theorem renderEdge_of_illegal (hl : scaleLegal scale = false) (s : State) :
    renderEdge e scale order p s = (badScale scale s).setPhase .idle := by
  simp [renderEdge, hl]

/-- Without `out_ready` the word is held (D13). -/
theorem renderEdge_of_stall (hl : scaleLegal scale = true) (ho : e.outReady = false) (s : State) :
    renderEdge e scale order p s = s := by
  simp [renderEdge, hl, ho]

theorem renderEdge_of_next (hl : scaleLegal scale = true) (ho : e.outReady = true) (hp : p + 1 ≠ outWords scale) (s : State) :
    renderEdge e scale order p s = s.setPhase (.render scale order (p + 1)) := by
  simp [renderEdge, hl, ho, hp]

theorem renderEdge_of_last (hl : scaleLegal scale = true) (ho : e.outReady = true) (hp : p + 1 = outWords scale) (s : State) :
    renderEdge e scale order p s = s.setPhase .idle := by
  simp [renderEdge, hl, ho, hp]

/-- An edge of a legal render touches neither the diagnostic nor `STATUS`. -/
theorem renderEdge_diag_status (hl : scaleLegal scale = true) (s : State) :
    (renderEdge e scale order p s).diag = s.diag ∧ (renderEdge e scale order p s).status = s.status := by
  simp only [renderEdge, hl, if_true]
  split_ifs <;> exact ⟨rfl, rfl⟩

variable {s : State}

theorem offeredWord_of_render (hp : s.phase = .render scale order p) (hl : scaleLegal scale = true) :
    offeredWord s = some (outData s scale order p) := by
  simp [offeredWord, hp, hl]

theorem offersLast_of_render (hp : s.phase = .render scale order p) (hl : scaleLegal scale = true) :
    offersLast s = decide (p + 1 = outWords scale) := by
  simp [offersLast, hp, hl]

end

theorem portOutputs_out (s : State) {e : PortInputs} (h : e.rst = false) : (portOutputs s e).out = offeredWord s := by
  simp [portOutputs, h]

theorem portOutputs_outLast (s : State) {e : PortInputs} (h : e.rst = false) : (portOutputs s e).outLast = offersLast s := by
  simp [portOutputs, h]

/-- Settles O41: the word on the port, then the three cases of an edge of a legal render. -/
theorem renderHandsOverWordByWord : Obligations.RenderHandsOverWordByWord := by
  intro s scale p order hp h1 hm hr
  have hl := scaleLegal_iff.2 ⟨h1, hm⟩
  rw [step_of_render hr hp]
  refine ⟨?_, ?_, fun ho => ?_, fun ho hne => ?_, fun ho heq => ?_⟩
  · rw [portOutputs_out s hr, offeredWord_of_render hp hl]
  · rw [portOutputs_outLast s hr, offersLast_of_render hp hl]
    exact decide_eq_true_iff
  · rw [renderEdge_of_stall hl ho]; rfl
  · rw [renderEdge_of_next hl ho hne]; rfl
  · rw [renderEdge_of_last hl ho heq]; rfl

/-! ### The diagnostic port -/

/-- The bit of a kind in `STATUS` is its number on `diag_kind` (R30, R211). -/
theorem setSticky_eq_kindValue (k : DiagKind) (v : BitVec 8) : setSticky k v = v ||| 1#8 <<< (kindValue k).toNat := by
  cases k <;> rfl

theorem portOutputs_diag_of_idle {s : State} (hp : s.phase = .idle) (e : PortInputs) : (portOutputs s e).diag = none := by
  simp [portOutputs, reportedDiag_idle hp]

/-- What a step does with diagnostics: it resets; or none is on the port and `STATUS` stays; or the one on the port belongs to
the transaction that completes at this edge, and `STATUS` gains its bit. -/
theorem StepEffect.diag_status {s t : State} (e : StepEffect s t) :
    ((nextEdge s).rst = true ∧ t.diag = none) ∨
    ((nextEdge s).rst = false ∧ reportedDiag s = t.diag ∧
      ((t.diag = none ∧ t.status = s.status) ∨
        ∃ d : Diagnostic, t.diag = some d ∧ t.status = setSticky d.kind s.status ∧ s.phase ≠ .idle ∧ t.phase = .idle)) := by
  cases e with
  | reset hr => exact .inl ⟨hr, rfl⟩
  | idle hr hp =>
    refine .inr ⟨hr, ?_, .inl ⟨acceptEdge_diag _ _, acceptEdge_status _ _⟩⟩
    rw [reportedDiag_idle hp, acceptEdge_diag, sampleEdge_diag]
  | apply rec u hr hp hu =>
    refine .inr ⟨hr, (reportedDiag_apply hp hu).trans rfl, ?_⟩
    rcases (effect_of_exec hu).diag_status with ⟨hd, hst⟩ | ⟨d, hd, hst⟩
    · exact .inl ⟨hd, hst⟩
    · exact .inr ⟨d, hd, hst, by simp [hp], rfl⟩
  | render scale order p hr hp =>
    refine .inr ⟨hr, ?_⟩
    rw [reportedDiag_render hp]
    cases hl : scaleLegal scale with
    | true =>
      obtain ⟨hd, hst⟩ := renderEdge_diag_status (e := nextEdge s) (order := order) (p := p) hl (sampleEdge s)
      exact ⟨hd.symm, .inl ⟨hd, hst⟩⟩
    | false =>
      rw [renderEdge_of_illegal hl]
      exact ⟨rfl, .inr ⟨_, rfl, rfl, by simp [hp], rfl⟩⟩

/-- Settles O44: the three cases of `StepEffect.diag_status`. -/
theorem statusGainsOnlyTheRaisedBit : Obligations.StatusGainsOnlyTheRaisedBit := by
  intro s t hstep
  rcases (effect_of_step hstep).diag_status with ⟨hr, hd⟩ | ⟨hr, hport, ⟨hd, hst⟩ | ⟨d, hd, hst, hbusy, hidle⟩⟩
  · rw [portOutputs_diag_of_rst s hr]
    exact ⟨hd, by simp [hd], by simp [hr]⟩
  · rw [portOutputs_diag s hr]
    exact ⟨hport.symm, by simp [hd], fun _ => by simp [hd, hst]⟩
  · rw [portOutputs_diag s hr]
    refine ⟨hport.symm, fun _ _ => ⟨hbusy, hidle, portOutputs_diag_of_idle hidle⟩, fun _ => ?_⟩
    rw [hd, hst, setSticky_eq_kindValue]

end Sys2Proof.Machine
end

section
/-! PROOFS. The words of a render spell its composite, in whatever rhythm the consumer takes them (R34, R185, D13). -/
namespace Sys2Proof.Machine

/-! ### Output words -/

theorem toList_eq_bytes (q : Vector Byte 4) : q.toList = [q[0], q[1], q[2], q[3]] := by
  refine List.ext_getElem (by simp) fun i hi _ => ?_
  have : i < 4 := by simpa using hi
  interval_cases i <;> simp

/-- A word's bytes, lowest offset first, are the pixel's (R34). -/
theorem wordBytes_pixelWord (q : Vector Byte 4) : wordBytes (pixelWord q) = q.toList := by
  rw [toList_eq_bytes]
  simp (disch := decide) only [wordBytes, pixelWord, extractLsb'_append_low, extractLsb'_append_high]
  simp [BitVec.extractLsb'_eq_self]

theorem wordBytes_outData (s : State) (scale : Nat) (order : ByteOrder) (p : Nat) : wordBytes (outData s scale order p) =
    (outPixel s scale order (p / (300 * scale)) (p % (300 * scale))).toList := wordBytes_pixelWord _

/-- Counting through `m` rows of `n` columns is counting to `m * n` in raster order. -/
theorem flatMap_range_mul {α : Type} (f : Nat → Nat → List α) (m n : Nat) :
    (List.range (m * n)).flatMap (fun p => f (p / n) (p % n)) =
      (List.range m).flatMap fun i => (List.range n).flatMap fun j => f i j := by
  induction m with
  | zero => simp
  | succ m ih =>
    have hrow : ∀ j ∈ List.range n, f ((m * n + j) / n) ((m * n + j) % n) = f m j := fun j hj => by
      have hj : j < n := List.mem_range.1 hj
      rw [Nat.mul_comm m n, Nat.mul_add_div (by omega), Nat.mul_add_mod, Nat.div_eq_of_lt hj, Nat.mod_eq_of_lt hj, Nat.add_zero]
    rw [Nat.succ_mul, List.range_add, List.flatMap_append, ih, List.range_succ, List.flatMap_append, List.flatMap_map,
      List.flatMap_singleton, List.flatMap_congr hrow]

/-- The bytes of `k` words of a render from word `p`. -/
def wordsFrom (s : State) (scale : Nat) (order : ByteOrder) (p k : Nat) : List Byte :=
  (List.range k).flatMap fun j => wordBytes (outData s scale order (p + j))

section
variable (s : State) (scale : Nat) (order : ByteOrder) (p k : Nat)

@[simp] theorem wordsFrom_zero : wordsFrom s scale order p 0 = [] := rfl

/-- The word in turn comes first. -/
theorem wordsFrom_succ :
    wordsFrom s scale order p (k + 1) = wordBytes (outData s scale order p) ++ wordsFrom s scale order (p + 1) k := by
  simp [wordsFrom, List.range_succ_eq_map, List.flatMap_map, Nat.add_assoc, Nat.add_comm 1]

/-- The last word comes last. -/
theorem wordsFrom_succ_last :
    wordsFrom s scale order p (k + 1) = wordsFrom s scale order p k ++ wordBytes (outData s scale order (p + k)) := by
  simp [wordsFrom, List.range_succ]

/-- All words of a render, in order, are its composite. -/
theorem wordsFrom_outWords : wordsFrom s scale order 0 (outWords scale) = composite s scale order := by
  have hw : outWords scale = 216 * scale * (300 * scale) := by rw [outWords]; ring
  simp only [wordsFrom, Nat.zero_add, wordBytes_outData, hw]
  exact flatMap_range_mul (fun i j => (outPixel s scale order i j).toList) _ _

end

/-- Settles O55: the words from word 0 on are the pixels in raster order. -/
theorem portWordsSpellTheComposite : Obligations.PortWordsSpellTheComposite := by
  intro s scale order
  simpa only [wordsFrom, Nat.zero_add] using wordsFrom_outWords s scale order

/-! ### What a host sees at an edge -/

/-- A reset discards the render it cuts short, and shows nothing (R247). -/
theorem seeEdge_of_rst {s : State} (h : (nextEdge s).rst = true) (w : Seen) : seeEdge s w = { w with current := [] } := by
  simp [seeEdge, portOutputs, h]

theorem seeEdge_of_no_word {s : State} (h : (nextEdge s).rst = false) (ho : offeredWord s = none) (w : Seen) :
    seeEdge s w = { w with diags := w.diags ++ (reportedDiag s).toList } := by
  simp [seeEdge, h, portOutputs_out, portOutputs_diag, ho]

theorem seeEdge_of_idle {s : State} (h : (nextEdge s).rst = false) (hp : s.phase = .idle) (w : Seen) : seeEdge s w = w := by
  rw [seeEdge_of_no_word h (by simp [offeredWord, hp]), reportedDiag_idle hp]
  simp

section
variable {s : State} {scale p : Nat} {order : ByteOrder} (h : (nextEdge s).rst = false)
  (hp : s.phase = .render scale order p) (hl : scaleLegal scale = true)
include h hp hl

/-- In a legal render the host sees the word it takes and nothing else. -/
theorem seeEdge_of_render (w : Seen) : seeEdge s w =
    if (nextEdge s).outReady then seeWord (outData s scale order p) (decide (p + 1 = outWords scale)) w else w := by
  simp [seeEdge, h, portOutputs_out, portOutputs_outLast, portOutputs_diag, offeredWord_of_render hp hl,
    offersLast_of_render hp hl, reportedDiag_render hp, hl]

theorem watch_stall (ho : (nextEdge s).outReady = false) (n : Nat) (w : Seen) :
    watch (n + 1) s w = watch n (sampleEdge s) w := by
  rw [watch_succ (step_of_render h hp), renderEdge_of_stall hl ho, seeEdge_of_render h hp hl]
  simp [ho]

theorem watch_take (ho : (nextEdge s).outReady = true) (hne : p + 1 ≠ outWords scale) (n : Nat) (w : Seen) :
    watch (n + 1) s w = watch n ((sampleEdge s).setPhase (.render scale order (p + 1)))
      { w with current := w.current ++ wordBytes (outData s scale order p) } := by
  rw [watch_succ (step_of_render h hp), renderEdge_of_next hl ho hne, seeEdge_of_render h hp hl]
  simp [ho, hne, seeWord]

theorem watch_take_last (ho : (nextEdge s).outReady = true) (heq : p + 1 = outWords scale) (n : Nat) (w : Seen) :
    watch (n + 1) s w = watch n ((sampleEdge s).setPhase .idle)
      { w with outs := w.outs ++ [w.current ++ wordBytes (outData s scale order p)], current := [] } := by
  rw [watch_succ (step_of_render h hp), renderEdge_of_last hl ho heq, seeEdge_of_render h hp hl]
  simp [ho, heq, seeWord]

end

/-! ### A render under back-pressure -/

/-- Edges that do not end a legal render hand over one word for each `out_ready`, in order (R34). -/
theorem watch_busy {scale : Nat} {order : ByteOrder} (hl : scaleLegal scale = true) {es rest : List PortInputs}
    (hes : ∀ e ∈ es, e.rst = false) {s : State} {p : Nat} (w : Seen) (hp : s.phase = .render scale order p)
    (hd : s.diag = none) (hedges : s.edges = es ++ rest) (hlt : p + es.countP (·.outReady) < outWords scale) :
    watch es.length s w = .next
      ({ s with edges := rest, phase := .render scale order (p + es.countP (·.outReady)), diag := none },
       { w with current := w.current ++ wordsFrom s scale order p (es.countP (·.outReady)) }) := by
  induction es generalizing s p w with
  | nil =>
    obtain ⟨fb, ct, status, phase, diag, edges⟩ := s
    simp_all [watch]
  | cons e es ih =>
    obtain ⟨hr, hes⟩ := List.forall_mem_cons.1 hes
    have he : nextEdge s = e := nextEdge_cons hedges
    have htail : (sampleEdge s).edges = es ++ rest := by simp [hedges]
    rw [List.length_cons]
    cases ho : e.outReady with
    | false =>
      have hc : (e :: es).countP (·.outReady) = es.countP (·.outReady) := List.countP_cons_of_neg (by simp [ho])
      rw [hc] at hlt ⊢
      rw [watch_stall (he ▸ hr) hp hl (he ▸ ho), ih (s := sampleEdge s) hes w hp rfl htail hlt]
      rfl
    | true =>
      have hc : (e :: es).countP (·.outReady) = es.countP (·.outReady) + 1 := List.countP_cons_of_pos ho
      have hnext : ((sampleEdge s).setPhase (.render scale order (p + 1))).phase = .render scale order (p + 1) := rfl
      rw [hc] at hlt ⊢
      rw [watch_take (he ▸ hr) hp hl (he ▸ ho) (by omega), ih hes _ hnext rfl htail (by omega), wordsFrom_succ,
        ← List.append_assoc, Nat.add_right_comm p 1]
      rfl

/-- Settles O56: `watch_busy` for the first `n` edges. -/
theorem backPressureOnlyDelays : Obligations.BackPressureOnlyDelays := by
  intro n scale p order s w hp hl hn hes hd hlt
  have h := watch_busy hl hes w hp hd (List.take_append_drop n s.edges).symm hlt
  rw [List.length_take_of_le hn, ← hd] at h
  exact h

/-- The diagnostic of the transaction before plays no part in an edge (R35). -/
theorem watch_setDiag (n : Nat) (s : State) (d : Option Diagnostic) (w : Seen) :
    watch (n + 1) (s.setDiag d) w = watch (n + 1) s w := rfl

/-- Settles O57: `watch_busy` up to the last word, which completes the composite. -/
theorem renderDeliversTheComposite : Obligations.RenderDeliversTheComposite := by
  intro s w scale n order es last rest hp hl hcur hedges htakes hn hr ho
  obtain ⟨hes, hcount⟩ := htakes
  have hbusy := watch_busy (s := s.setDiag none) hl hes w hp rfl hedges (by omega)
  rw [hcount, Nat.zero_add] at hbusy
  have hall := wordsFrom_succ_last s scale order 0 n
  rw [hn, wordsFrom_outWords, Nat.zero_add] at hall
  rw [← watch_setDiag _ _ none, watch_add hbusy 1]
  refine (watch_take_last (s := { s with edges := last :: rest, phase := .render scale order n, diag := none })
    hr rfl hl ho hn 0 _).trans ?_
  rw [hall, hcur]
  rfl

end Sys2Proof.Machine
end

section
/-! PROOFS. Driving the ports refines the transaction functions (R38, R63, R250, R251): each way to carry one transaction out
simulates that transaction, and simulations compose along `Carried`. -/
namespace Sys2Proof.Machine

/-! ### Two states that hold the same block -/

/-- The same framebuffer, color table and `STATUS`; the phase, the diagnostic and the host's side may differ. -/
structure SameBlock (s t : State) : Prop where
  fb : s.fb = t.fb
  ct : s.ct = t.ct
  status : s.status = t.status

theorem sameBlock_resetBlock (s t : State) : SameBlock (resetBlock s) (resetBlock t) := ⟨rfl, rfl, rfl⟩

theorem SameBlock.badScale {s t : State} (h : SameBlock s t) (scale : Nat) :
    SameBlock (badScale scale s) (badScale scale t) where
  fb := h.fb
  ct := h.ct
  status := by simp [h.status]

/-- The composite is a function of the block's framebuffer and color table alone. -/
theorem SameBlock.composite_eq {s t : State} (h : SameBlock s t) (scale : Nat) (order : ByteOrder) :
    composite s scale order = composite t scale order := by
  have hpixel : outPixel s scale order = outPixel t scale order := by
    funext y x
    rw [outPixel, outPixel, cell, cell, h.fb, h.ct]
  have hrow : outRowBytes s scale order = outRowBytes t scale order := by
    funext y
    rw [outRowBytes, outRowBytes, hpixel]
  rw [composite, composite, hrow]

/-- No instruction reads the phase or the host's side (R120). -/
theorem exec_setPhase_setEdges (i : Instr) (s : State) (ph : Phase) (es : List PortInputs) :
    ∃ u, exec i s = .next u ∧ exec i ((s.setPhase ph).setEdges es) = .next ((u.setPhase ph).setEdges es) := by
  cases i with
  | memoryPreset c r =>
    refine ⟨_, exec_memoryPreset c r s, (exec_memoryPreset c r _).trans ?_⟩
    split <;> rfl
  | borderPreset c => exact ⟨_, exec_borderPreset c s, exec_borderPreset c _⟩
  | tileBlock c0 c1 row col bm =>
    refine ⟨_, exec_tileBlock c0 c1 row col bm s, (exec_tileBlock c0 c1 row col bm _).trans ?_⟩
    split <;> rfl
  | tileBlockXor c0 c1 row col bm =>
    refine ⟨_, exec_tileBlockXor c0 c1 row col bm s, (exec_tileBlockXor c0 c1 row col bm _).trans ?_⟩
    split <;> rfl
  | _ => exact ⟨_, rfl, rfl⟩

theorem SameBlock.eq_setPhase_setEdges {s t : State} (h : SameBlock s t) (hd : s.diag = t.diag) :
    t = (s.setPhase t.phase).setEdges t.edges := by
  obtain ⟨hfb, hct, hst⟩ := h
  rw [State.setPhase, State.setEdges, hfb, hct, hst, hd]

/-- One instruction does the same to the same block. -/
theorem SameBlock.exec {s t : State} (h : SameBlock s t) (hd : s.diag = t.diag) (i : Instr) :
    ∃ u v, exec i s = .next u ∧ exec i t = .next v ∧ SameBlock u v ∧ u.diag = v.diag := by
  obtain ⟨u, hu, hv⟩ := exec_setPhase_setEdges i s t.phase t.edges
  rw [← h.eq_setPhase_setEdges hd] at hv
  exact ⟨u, _, hu, hv, ⟨rfl, rfl, rfl⟩, rfl⟩

/-! ### Edges of an idle block -/

section
variable {s : State} {e : PortInputs} {es : List PortInputs} (hedges : s.edges = e :: es) (hp : s.phase = .idle)
include hedges hp

theorem watch_accept (hr : e.rst = false) (n : Nat) (w : Seen) :
    watch (n + 1) s w = watch n (acceptEdge e (sampleEdge s)) w := by
  have he : nextEdge s = e := nextEdge_cons hedges
  rw [watch_succ (step_of_idle (he ▸ hr) hp), seeEdge_of_idle (he ▸ hr) hp, he]

theorem watch_offer {rec : Record} (h : offersRecord rec e) (n : Nat) (w : Seen) :
    watch (n + 1) s w = watch n ((sampleEdge s).setPhase (.apply rec)) w := by
  obtain ⟨hr, hv, rfl⟩ := h
  rw [watch_accept hedges hp hr, acceptEdge_of_record (by simpa using hp) hr hv]

theorem watch_request {scale : Nat} {order : ByteOrder} (h : requestsRender scale order e) (n : Nat) (w : Seen) :
    watch (n + 1) s w = watch n ((sampleEdge s).setPhase (.render scale order 0)) w := by
  obtain ⟨hr, hv, hn, rfl, rfl⟩ := h
  rw [watch_accept hedges hp hr, acceptEdge_of_request (by simpa using hp) hr hv hn]

end

/-! ### Edges that complete a transaction -/

theorem watch_reset {s : State} (h : (nextEdge s).rst = true) (w : Seen) :
    watch 1 s w = .next (resetBlock (sampleEdge s), { w with current := [] }) := by
  rw [watch_succ (step_of_rst h), seeEdge_of_rst h]
  rfl

theorem watch_apply {s u : State} {rec : Record} (hr : (nextEdge s).rst = false) (hp : s.phase = .apply rec)
    (hu : exec (decode rec) (sampleEdge s) = .next u) (w : Seen) :
    watch 1 s w = .next (u.setPhase .idle, { w with diags := w.diags ++ u.diag.toList }) := by
  have hstep : step s = .next (u.setPhase .idle) := by rw [step_of_apply hr hp, hu, finishRecord_next]
  rw [watch_succ hstep, seeEdge_of_no_word hr (by simp [offeredWord, hp]), reportedDiag_apply hp hu]
  rfl

theorem watch_illegal {s : State} {scale p : Nat} {order : ByteOrder} (hr : (nextEdge s).rst = false)
    (hp : s.phase = .render scale order p) (hl : scaleLegal scale = false) (w : Seen) :
    watch 1 s w = .next ((badScale scale (sampleEdge s)).setPhase .idle,
      { w with diags := w.diags ++ (badScale scale (sampleEdge s)).diag.toList }) := by
  rw [watch_succ (step_of_render hr hp), renderEdge_of_illegal hl,
    seeEdge_of_no_word hr (by simp [offeredWord, hp, hl]), reportedDiag_render hp]
  simp [hl, watch]

/-! ### Transaction functions -/

theorem perform_record {rec : Record} {t u : State} (hu : exec (decode rec) (t.setDiag none) = .next u) :
    perform (.record rec) t = .next (u, []) := by
  simp [perform, hu]

theorem perform_render_of_legal {scale : Nat} {order : ByteOrder} (hl : scaleLegal scale = true) (t : State) :
    perform (.render scale order) t = .next (t.setDiag none, composite t scale order) := by
  rw [perform, render, if_pos hl]
  rfl

theorem perform_render_of_illegal {scale : Nat} {order : ByteOrder} (hl : scaleLegal scale = false) (t : State) :
    perform (.render scale order) t = .next (badScale scale (t.setDiag none), []) := by
  simp [perform, render, hl]

/-! ### Simulation of one transaction -/

/-- Driving the edges `pre` from an idle block does what the transaction function does, as far as the host sees, and ends
idle. -/
def Simulates (tr : Transaction) (pre : List PortInputs) : Prop :=
  ∀ (s t : State) (w : Seen) (rest : List PortInputs), s.edges = pre ++ rest → s.phase = .idle → SameBlock s t →
    w.current = [] → ∃ s' t' out, watch pre.length s w = .next (s', seeTransaction tr t' out w) ∧
      perform tr t = .next (t', out) ∧ SameBlock s' t' ∧ s'.phase = .idle ∧ s'.edges = rest

/-- Driving the edges `pre` from an idle block completes nothing: the host has seen at most a part of a render. -/
def Unfinished (pre : List PortInputs) : Prop :=
  ∀ (s : State) (w : Seen) (rest : List PortInputs), s.edges = pre ++ rest → s.phase = .idle →
    ∃ u c, watch pre.length s w = .next (u, { w with current := c }) ∧ u.edges = rest

theorem unfinished_nil : Unfinished [] := fun s w _ hedges _ => ⟨s, w.current, rfl, hedges⟩

theorem unfinished_record {rec : Record} {e : PortInputs} (h : offersRecord rec e) : Unfinished [e] :=
  fun _ w rest hedges hp => ⟨_, w.current, watch_offer hedges hp h 0 w, by simp [hedges]⟩

theorem unfinished_request {scale : Nat} {order : ByteOrder} {e : PortInputs} (h : requestsRender scale order e) :
    Unfinished [e] :=
  fun _ w rest hedges hp => ⟨_, w.current, watch_request hedges hp h 0 w, by simp [hedges]⟩

theorem unfinished_render {scale n : Nat} {order : ByteOrder} {e : PortInputs} {busy : List PortInputs}
    (h : requestsRender scale order e) (hl : scaleLegal scale = true) (hb : takesWords n busy) (hn : n < outWords scale) :
    Unfinished (e :: busy) := by
  intro s w rest hedges hp
  obtain ⟨hr, rfl⟩ := hb
  exact ⟨_, _, (watch_request hedges hp h _ w).trans
    (watch_busy hl hr w (State.setPhase_phase _ _) rfl (by simp [hedges]) (by omega)), rfl⟩

/-- A reset abandons whatever is unfinished (R241). -/
theorem simulates_reset {pre : List PortInputs} {e : PortInputs} (hpre : Unfinished pre) (he : e.rst = true) :
    Simulates .reset (pre ++ [e]) := by
  intro s t w rest hedges hp _ hcur
  obtain ⟨u, c, hu, hue⟩ := hpre s w (e :: rest) (by simp [hedges]) hp
  have hrst : (nextEdge u).rst = true := by rwa [nextEdge_cons hue]
  refine ⟨resetBlock (sampleEdge u), _, _, ?_, rfl, sameBlock_resetBlock _ t, rfl, by simp [hue]⟩
  rw [List.length_append, List.length_singleton, watch_add hu, watch_reset hrst]
  simp [seeTransaction, hcur]

theorem simulates_record {rec : Record} {e e' : PortInputs} (h : offersRecord rec e) (he' : e'.rst = false) :
    Simulates (.record rec) [e, e'] := by
  intro s t w rest hedges hp hb _
  have hstart : SameBlock (sampleEdge ((sampleEdge s).setPhase (.apply rec))) (t.setDiag none) := ⟨hb.fb, hb.ct, hb.status⟩
  obtain ⟨u, v, hu, hv, huv, hd⟩ := hstart.exec rfl (decode rec)
  have hr : (nextEdge ((sampleEdge s).setPhase (.apply rec))).rst = false := by simpa [nextEdge, hedges] using he'
  refine ⟨u.setPhase .idle, v, [], ?_, perform_record hv, ⟨huv.fb, huv.ct, huv.status⟩, rfl, ?_⟩
  · refine (watch_offer hedges hp h 1 w).trans ((watch_apply hr rfl hu w).trans ?_)
    simp [seeTransaction, hd]
  · simp [(effect_of_exec hu).edges_eq, hedges]

theorem simulates_render {scale n : Nat} {order : ByteOrder} {e last : PortInputs} {busy : List PortInputs}
    (h : requestsRender scale order e) (hl : scaleLegal scale = true) (hb : takesWords n busy) (hn : n + 1 = outWords scale)
    (hlast : last.rst = false) (hready : last.outReady = true) : Simulates (.render scale order) (e :: (busy ++ [last])) := by
  intro s t w rest hedges hp hst hcur
  have hbusy : SameBlock ((sampleEdge s).setPhase (.render scale order 0)) t := ⟨hst.fb, hst.ct, hst.status⟩
  refine ⟨{ s with edges := rest, phase := .idle, diag := none }, _, _, ?_, perform_render_of_legal hl t,
    ⟨hst.fb, hst.ct, hst.status⟩, rfl, rfl⟩
  rw [List.length_cons, watch_request hedges hp h, List.length_append, List.length_singleton]
  refine (renderDeliversTheComposite _ w scale n order busy last rest rfl hl hcur (by simp [hedges]) hb hn hlast hready).trans ?_
  simp [seeTransaction, hl, hbusy.composite_eq]

theorem simulates_illegal {scale : Nat} {order : ByteOrder} {e e' : PortInputs} (h : requestsRender scale order e)
    (hl : scaleLegal scale = false) (he' : e'.rst = false) : Simulates (.render scale order) [e, e'] := by
  intro s t w rest hedges hp hst _
  have hr : (nextEdge ((sampleEdge s).setPhase (.render scale order 0))).rst = false := by
    simpa [nextEdge, hedges] using he'
  have hstart : SameBlock (sampleEdge ((sampleEdge s).setPhase (.render scale order 0))) (t.setDiag none) :=
    ⟨hst.fb, hst.ct, hst.status⟩
  have hbad := hstart.badScale scale
  refine ⟨(badScale scale (sampleEdge ((sampleEdge s).setPhase (.render scale order 0)))).setPhase .idle, _, _, ?_,
    perform_render_of_illegal hl t, ⟨hbad.fb, hbad.ct, hbad.status⟩, rfl, by simp [hedges]⟩
  refine (watch_request hedges hp h 1 w).trans ((watch_illegal hr rfl hl w).trans ?_)
  simp [seeTransaction, hl]

/-! ### Sequences of transactions -/

/-- Driving the edges from an idle block does what the sequence of transaction functions does, and ends idle. -/
def Refines (ts : List Transaction) (es : List PortInputs) : Prop :=
  ∀ (s t : State) (w : Seen), s.edges = es → s.phase = .idle → SameBlock s t → w.current = [] →
    ∃ s' t' v, watch es.length s w = .next (s', v) ∧ performAll ts t w = .next (t', v) ∧ SameBlock s' t' ∧
      s'.phase = .idle ∧ s'.edges = []

theorem refines_nil : Refines [] [] := fun s t w hedges hp hb _ => ⟨s, t, w, rfl, rfl, hb, hp, hedges⟩

theorem refines_wait {ts : List Transaction} {es : List PortInputs} {e : PortInputs} (hr : e.rst = false)
    (hv : e.recValid = false) (hn : e.rndValid = false) (h : Refines ts es) : Refines ts (e :: es) := by
  intro s t w hedges hp hb hcur
  rw [List.length_cons, watch_accept hedges hp hr, acceptEdge_of_nothing _ hv hn]
  exact h (sampleEdge s) t w (by simp [hedges]) hp ⟨hb.fb, hb.ct, hb.status⟩ hcur

theorem refines_cons {tr : Transaction} {ts : List Transaction} {pre es : List PortInputs} (h : Simulates tr pre)
    (hs : Refines ts es) : Refines (tr :: ts) (pre ++ es) := by
  intro s t w hedges hp hb hcur
  obtain ⟨s₁, t₁, out, hwatch, hperform, hb₁, hp₁, hedges₁⟩ := h s t w es hedges hp hb hcur
  obtain ⟨s₂, t₂, v, hwatch₂, hperform₂, hend⟩ := hs s₁ t₁ (seeTransaction tr t₁ out w) hedges₁ hp₁ hb₁ hcur
  refine ⟨s₂, t₂, v, ?_, ?_, hend⟩
  · rw [List.length_append, watch_add hwatch, hwatch₂]
  · simp [performAll, hperform, hperform₂]

/-- Every way to carry transactions out refines them. -/
theorem refines_of_carried {ts : List Transaction} {es : List PortInputs} (h : Carried ts es) : Refines ts es := by
  induction h with
  | done => exact refines_nil
  | wait hr hv hn _ ih => exact refines_wait hr hv hn ih
  | reset he _ ih => exact refines_cons (simulates_reset unfinished_nil he) ih
  | record ho he' _ ih => exact refines_cons (simulates_record ho he') ih
  | recordCut ho he' _ ih => exact refines_cons (simulates_reset (unfinished_record ho) he') ih
  | render hq hl hb hn hr ho _ ih => simpa using refines_cons (simulates_render hq hl hb hn hr ho) ih
  | renderCut hq hl hb hn he' _ ih => simpa using refines_cons (simulates_reset (unfinished_render hq hl hb hn) he') ih
  | illegal hq hl he' _ ih => exact refines_cons (simulates_illegal hq hl he') ih
  | illegalCut hq _ he' _ ih => exact refines_cons (simulates_reset (unfinished_request hq) he') ih

/-- Settles O58: the refinement, started from one and the same state. -/
theorem portsRefineTransactions : Obligations.PortsRefineTransactions := by
  intro ts s w hp hcur hc
  obtain ⟨s', t, v, hwatch, hperform, hb, hp', hedges⟩ := refines_of_carried hc s s w rfl hp ⟨rfl, rfl, rfl⟩ hcur
  exact ⟨s', v, t, v, hwatch, hperform, by rw [observation, observation, hb.status], hb.fb, hb.ct, hp', hedges⟩

end Sys2Proof.Machine
end

section
/-! PROOFS. Applying an instruction twice (R59): each effect but TileBlockXor's writes values that do not depend on what it
overwrites, or raises the same diagnostic again. -/
namespace Sys2Proof.Machine

/-! ### Drawing twice -/

/-- A drawing whose values do not depend on what it overwrites can be repeated without effect. -/
theorem rectUpdate_overwrite_twice {q : Rect} (hq : rectInGrid q = true) (g : Nat → Nat → Byte) {m : Memory}
    (hm : memoryWf m = true) :
    rectUpdate q (fun y x _ => g y x) (rectUpdate q (fun y x _ => g y x) m) = rectUpdate q (fun y x _ => g y x) m := by
  have hw := (rectInGrid_iff.1 hq).2
  have hm₁ := memoryWf_rectUpdate hq (fun y x _ => g y x) hm
  refine memory_ext (memoryWf_rectUpdate hq _ hm₁) hm₁ fun a => ?_
  rw [memRead_rectUpdate hw _ (rising_of_memoryWf hm₁), memRead_rectUpdate hw _ (rising_of_memoryWf hm)]
  split <;> rfl

theorem memoryWf_borderFb (c : Nibble) {m : Memory} (hm : memoryWf m = true) : memoryWf (borderFb c m) = true :=
  memoryWf_rectUpdate rectInGrid_rightBorder _ <| memoryWf_rectUpdate rectInGrid_leftBorder _ <|
    memoryWf_rectUpdate rectInGrid_topBorder _ hm

/-- What a reader sees after a BorderPreset (R124). -/
theorem memRead_borderFb (c : Nibble) {m : Memory} (hm : memoryWf m = true) (a : Nat) : memRead (borderFb c m) a =
    if rectCovers rightBorder (addrRow a) (addrColumn a) ∨ rectCovers leftBorder (addrRow a) (addrColumn a) ∨
      rectCovers topBorder (addrRow a) (addrColumn a) then zext8 c else memRead m a := by
  have htop := memoryWf_rectUpdate rectInGrid_topBorder (fun _ _ _ => zext8 c) hm
  have hleft := memoryWf_rectUpdate rectInGrid_leftBorder (fun _ _ _ => zext8 c) htop
  rw [borderFb, memRead_rectUpdate (rectInGrid_iff.1 rectInGrid_rightBorder).2 _ (rising_of_memoryWf hleft),
    memRead_rectUpdate (rectInGrid_iff.1 rectInGrid_leftBorder).2 _ (rising_of_memoryWf htop),
    memRead_rectUpdate (rectInGrid_iff.1 rectInGrid_topBorder).2 _ (rising_of_memoryWf hm)]
  simp only [ite_or]

theorem borderFb_borderFb (c : Nibble) {m : Memory} (hm : memoryWf m = true) : borderFb c (borderFb c m) = borderFb c m := by
  have hm₁ := memoryWf_borderFb c hm
  refine memory_ext (memoryWf_borderFb c hm₁) hm₁ fun a => ?_
  rw [memRead_borderFb c hm₁, memRead_borderFb c hm]
  split <;> rfl

/-! ### Loading and raising twice -/

theorem loadHalf_loadHalf (base : Nat) (es : Vector Rgb 8) (ct : Vector ColorEntry 16) :
    loadHalf base es (loadHalf base es ct) = loadHalf base es ct := by
  refine Vector.ext fun i hi => ?_
  rw [loadHalf_get _ _ _ i hi, loadHalf_get _ _ _ i hi]
  split <;> rfl

/-- The bit is sticky (R30) and the diagnostic is the same one. -/
theorem raiseDiag_raiseDiag (k : DiagKind) (c : BitVec 6) (s : State) : raiseDiag k c (raiseDiag k c s) = raiseDiag k c s := by
  have hsticky : setSticky k (setSticky k s.status) = setSticky k s.status := by
    rw [setSticky, setSticky, BitVec.or_assoc, BitVec.or_self]
  exact congrArg (fun v => (s.setStatus v).setDiag (some { kind := k, code := c })) hsticky

/-! ### Applying an instruction twice -/

/-- Settles O32: the overwriting instructions by reading every cell or entry back, the reporting ones because raising the
same diagnostic again changes nothing. -/
theorem allButXorAreIdempotent : Obligations.AllButXorAreIdempotent := by
  intro i s hm hxor
  cases i with
  | memoryPreset c r =>
    refine ⟨_, exec_memoryPreset c r s, (exec_memoryPreset c r _).trans (congrArg _ ?_)⟩
    split
    · rfl
    · exact congrArg s.setFb (rectUpdate_overwrite_twice rectInGrid_wholeGrid _ hm)
  | borderPreset c =>
    refine ⟨_, exec_borderPreset c s, (exec_borderPreset c _).trans (congrArg _ ?_)⟩
    exact congrArg s.setFb (borderFb_borderFb c hm)
  | tileBlock c0 c1 row col bm =>
    refine ⟨_, exec_tileBlock c0 c1 row col bm s, (exec_tileBlock c0 c1 row col bm _).trans (congrArg _ ?_)⟩
    split
    · exact raiseDiag_raiseDiag _ _ s
    · next h =>
      exact congrArg s.setFb (rectUpdate_overwrite_twice (rectInGrid_tileRect (by simpa using h)) _ hm)
  | tileBlockXor c0 c1 row col bm => exact absurd rfl (hxor c0 c1 row col bm)
  | loadColorTableLow es => exact ⟨_, rfl, congrArg Host.Outcome.next (congrArg s.setCt (loadHalf_loadHalf 0 es s.ct))⟩
  | loadColorTableHigh es => exact ⟨_, rfl, congrArg Host.Outcome.next (congrArg s.setCt (loadHalf_loadHalf 8 es s.ct))⟩
  | nop => exact ⟨_, rfl, rfl⟩
  | nonGraphics => exact ⟨_, rfl, rfl⟩
  | _ => exact ⟨_, rfl, congrArg Host.Outcome.next (raiseDiag_raiseDiag .unknownInstr _ s)⟩

end Sys2Proof.Machine
end

section
/-! PROOFS. Records and instructions carry the same information (R70 to R86, R101): what a record's fields decode to, and the
two round trips through the encoder. -/
namespace Sys2Proof

/-! ### Fields of a record -/

/-- The arm that a known instruction code selects (R75, R101). -/
theorem decode_of_codes {rec : Record} {k : BitVec 6} (hc : commandCode rec = 9) (hk : instrCode rec = k) :
    decode rec = decodeGraphics rec k.toNat := by
  rw [decode_of_command hc, hk]

theorem zext8_low_nibble (b : Byte) : zext8 (b.extractLsb' 0 4) = b &&& 0x0F := by revert b; decide

theorem setWidth_low_code (b : Byte) : (b.extractLsb' 0 6).setWidth 8 = b &&& 0x3F := by revert b; decide

theorem toNat_low5 (b : Byte) : (b.extractLsb' 0 5).toNat = (b &&& 0x1F).toNat := by revert b; decide

theorem toNat_low6 (b : Byte) : (b.extractLsb' 0 6).toNat = (b &&& 0x3F).toNat := by revert b; decide

theorem tileRow_eq_masked (rec : Record) : tileRow rec = (payload rec 2 &&& 0x1F).toNat * 12 := by
  rw [tileRow, toNat_low5]

theorem tileColumn_eq_masked (rec : Record) : tileColumn rec = (payload rec 3 &&& 0x3F).toNat * 6 := by
  rw [tileColumn, toNat_low6]

theorem tileBitmap_get (rec : Record) {i : Nat} (hi : i < 12) : (tileBitmap rec)[i] = payload rec ⟨4 + i, by omega⟩ := by
  simp only [tileBitmap, Vector.getElem_ofFn]

/-- Settles O2: a nibble taken from a byte is the byte under the mask `0x0F`. -/
theorem presetFieldsAreMaskedPayload : Obligations.PresetFieldsAreMaskedPayload := fun _ hc =>
  ⟨fun hk => ⟨_, _, decode_of_codes hc hk, zext8_low_nibble _, zext8_low_nibble _⟩,
    fun hk => ⟨_, decode_of_codes hc hk, zext8_low_nibble _⟩⟩

/-- Settles O3: both codes read the same fields. -/
theorem tileFieldsAreMaskedPayload : Obligations.TileFieldsAreMaskedPayload := by
  intro rec hc _
  simp only [← tileRow_eq_masked, ← tileColumn_eq_masked]
  exact ⟨_, _, tileBitmap rec, fun hk => decode_of_codes hc hk, fun hk => decode_of_codes hc hk, zext8_low_nibble _,
    zext8_low_nibble _, fun i => tileBitmap_get rec i.isLt⟩

/-! ### Color entries -/

/-- R103's scaling law. -/
theorem toNat_expand (v : Nibble) : (expand v).toNat = v.toNat * 255 / 15 := by revert v; decide

theorem toNat_red (b : Byte) : (b.extractLsb' 2 4).toNat = b.toNat / 4 % 16 := by
  simp [BitVec.extractLsb'_toNat, Nat.shiftRight_eq_div_pow]

theorem toNat_blue (b : Byte) : (b.extractLsb' 0 4).toNat = b.toNat % 16 := by
  simp [BitVec.extractLsb'_toNat]

theorem toNat_append_add {m n : Nat} (x : BitVec m) (y : BitVec n) : (x ++ y).toNat = x.toNat * 2 ^ n + y.toNat := by
  rw [BitVec.toNat_append, ← Nat.shiftLeft_add_eq_or_of_lt y.isLt, Nat.shiftLeft_eq]

/-- Green has its high half in the first byte (D2). -/
theorem toNat_green (b0 b1 : Byte) :
    (b0.extractLsb' 0 2 ++ b1.extractLsb' 4 2).toNat = b0.toNat % 4 * 4 + b1.toNat / 16 % 4 := by
  refine (toNat_append_add _ _).trans ?_
  simp [BitVec.extractLsb'_toNat, Nat.shiftRight_eq_div_pow]

/-- Settles O4: entry `k` quantizes payload bytes `2k` and `2k + 1`, and quantizing expands the three wire channels. -/
theorem colorEntriesByWireBits : Obligations.ColorEntriesByWireBits := by
  intro rec hc _
  refine ⟨clutEntries rec, fun hk => decode_of_codes hc hk, fun hk => decode_of_codes hc hk, fun k => ?_⟩
  simp only [clutEntries, Fin.getElem_fin, Vector.getElem_ofFn, quantize, toNat_expand, toNat_red, toNat_green, toNat_blue,
    and_self]

/-! ### Reading an encoding back -/

theorem extractLsb'_zext8 (v : Nibble) : (zext8 v).extractLsb' 0 4 = v := by revert v; decide

theorem tileRow_tilePayload (c k : Byte) (c0 c1 : Nibble) {row : Nat} (hrow : wfRow row = true) (column : Nat)
    (bm : Vector Byte 12) : tileRow (makeRecord c k (tilePayload c0 c1 row column bm)) = row := by
  obtain ⟨hmul, hle⟩ := wfRow_iff.1 hrow
  have hfield : ((BitVec.ofNat 8 (row / 12)).extractLsb' 0 5).toNat = row / 12 := by
    rw [BitVec.extractLsb'_toNat, BitVec.toNat_ofNat]
    omega
  show ((BitVec.ofNat 8 (row / 12)).extractLsb' 0 5).toNat * 12 = row
  omega

theorem tileColumn_tilePayload (c k : Byte) (c0 c1 : Nibble) (row : Nat) {column : Nat} (hcolumn : wfColumn column = true)
    (bm : Vector Byte 12) : tileColumn (makeRecord c k (tilePayload c0 c1 row column bm)) = column := by
  obtain ⟨hmul, hle⟩ := wfColumn_iff.1 hcolumn
  have hfield : ((BitVec.ofNat 8 (column / 6)).extractLsb' 0 6).toNat = column / 6 := by
    rw [BitVec.extractLsb'_toNat, BitVec.toNat_ofNat]
    omega
  show ((BitVec.ofNat 8 (column / 6)).extractLsb' 0 6).toNat * 6 = column
  omega

theorem tileBitmap_tilePayload (c k : Byte) (c0 c1 : Nibble) (row column : Nat) (bm : Vector Byte 12) :
    tileBitmap (makeRecord c k (tilePayload c0 c1 row column bm)) = bm := by
  ext i hi : 1
  simp only [tileBitmap_get, payload_makeRecord]
  interval_cases i <;> rfl

/-- The five fields that both tile blocks read, handed to either constructor. -/
theorem tileFields_tilePayload (tile : Nibble → Nibble → Nat → Nat → Vector Byte 12 → Instr) (c k : Byte) (c0 c1 : Nibble)
    {row column : Nat} (hrow : wfRow row = true) (hcolumn : wfColumn column = true) (bm : Vector Byte 12) :
    let r := makeRecord c k (tilePayload c0 c1 row column bm)
    tile ((payload r 0).extractLsb' 0 4) ((payload r 1).extractLsb' 0 4) (tileRow r) (tileColumn r) (tileBitmap r) =
      tile c0 c1 row column bm := by
  intro r
  rw [tileRow_tilePayload c k c0 c1 hrow, tileColumn_tilePayload c k c0 c1 row hcolumn, tileBitmap_tilePayload]
  exact congrArg₂ (tile · · row column bm) (extractLsb'_zext8 c0) (extractLsb'_zext8 c1)

theorem clutEntries_clutPayload (c k : Byte) {es : Vector Rgb 8} (hes : wfEntries es = true) :
    clutEntries (makeRecord c k (clutPayload es)) = es := by
  ext i hi : 1
  have hpair : (clutEntries (makeRecord c k (clutPayload es)))[i] = quantize (wireByte0 es[i]) (wireByte1 es[i]) := by
    simp only [clutEntries, Vector.getElem_ofFn, payload_makeRecord]
    interval_cases i <;> rfl
  rw [hpair, quantize_wireBytes (wfEntries_iff.1 hes i hi)]

/-- Settles O6: an instruction's code selects its own arm of the decoder, and each operand is read back from its field. -/
theorem decodeReadsBackEncode : Obligations.DecodeReadsBackEncode := by
  intro i hi
  cases i with
  | memoryPreset color rep =>
    exact congrArg₂ Instr.memoryPreset (extractLsb'_zext8 color) (extractLsb'_zext8 rep)
  | borderPreset color => exact congrArg Instr.borderPreset (extractLsb'_zext8 color)
  | tileBlock c0 c1 row column bm =>
    obtain ⟨hrow, hcolumn⟩ := Bool.and_eq_true_iff.1 hi
    exact tileFields_tilePayload .tileBlock 0x09 6 c0 c1 hrow hcolumn bm
  | tileBlockXor c0 c1 row column bm =>
    obtain ⟨hrow, hcolumn⟩ := Bool.and_eq_true_iff.1 hi
    exact tileFields_tilePayload .tileBlockXor 0x09 38 c0 c1 hrow hcolumn bm
  | loadColorTableLow es => exact congrArg Instr.loadColorTableLow (clutEntries_clutPayload _ _ hi)
  | loadColorTableHigh es => exact congrArg Instr.loadColorTableHigh (clutEntries_clutPayload _ _ hi)
  | _ => rfl

/-! ### Encoding what was decoded -/

theorem codeOf_decodeGraphics (rec : Record) {n : Nat} (hn : n < 64) : codeOf (decodeGraphics rec n) = n := by
  interval_cases n <;> rfl

theorem commandByteOf_decodeGraphics (rec : Record) (n : Nat) : commandByteOf (decodeGraphics rec n) = 0x09 := by
  unfold decodeGraphics
  split <;> rfl

theorem codeOf_decode {rec : Record} (hc : commandCode rec = 9) : codeOf (decode rec) = (instrCode rec).toNat := by
  rw [decode_of_command hc, codeOf_decodeGraphics rec (instrCode rec).isLt]

/-- A record's payload with every bit set to 0 that a mask does not name. -/
def maskedPayload (rec : Record) (mask : Payload) : Payload := Vector.ofFn fun k => payload rec k &&& mask[k]

theorem maskedPayload_get (rec : Record) (mask : Payload) {i : Nat} (hi : i < 16) :
    (maskedPayload rec mask)[i] = payload rec ⟨i, hi⟩ &&& mask[i] := by
  simp [maskedPayload]

theorem maskedPayload_emptyPayload (rec : Record) : maskedPayload rec emptyPayload = emptyPayload := by
  ext i hi : 1
  rw [maskedPayload_get rec _ hi]
  interval_cases i <;> exact BitVec.and_zero

theorem ofNat_tileRow_div (rec : Record) : BitVec.ofNat 8 (tileRow rec / 12) = payload rec 2 &&& 0x1F := by
  rw [tileRow_eq_masked, Nat.mul_div_cancel _ (by decide), BitVec.ofNat_toNat, BitVec.setWidth_eq]

theorem ofNat_tileColumn_div (rec : Record) : BitVec.ofNat 8 (tileColumn rec / 6) = payload rec 3 &&& 0x3F := by
  rw [tileColumn_eq_masked, Nat.mul_div_cancel _ (by decide), BitVec.ofNat_toNat, BitVec.setWidth_eq]

theorem and_0xFF (b : Byte) : b &&& 0xFF = b := BitVec.and_allOnes

theorem tilePayload_tileFields (rec : Record) :
    tilePayload ((payload rec 0).extractLsb' 0 4) ((payload rec 1).extractLsb' 0 4) (tileRow rec) (tileColumn rec)
      (tileBitmap rec) = maskedPayload rec (payloadMask 6) := by
  ext i hi : 1
  simp only [maskedPayload_get rec _ hi, tilePayload, zext8_low_nibble, ofNat_tileRow_div, ofNat_tileColumn_div,
    tileBitmap_get]
  rcases Nat.lt_or_ge i 4 with hfield | hbitmap
  · interval_cases i <;> rfl
  · interval_cases i <;> exact (and_0xFF _).symm

theorem wireByte0_quantize (b0 b1 : Byte) : wireByte0 (quantize b0 b1) = b0 &&& 0x3F := by
  have hbits : ∀ b : Byte, 0#2 ++ b.extractLsb' 2 4 ++ (b.extractLsb' 0 2).extractLsb' 0 2 = b &&& 0x3F := by decide
  rw [wireByte0, quantize, wireChannel_expand, wireChannel_expand, extractLsb'_append_high _ _ _ _ (Nat.le_refl 2), hbits]

theorem wireByte1_quantize (b0 b1 : Byte) : wireByte1 (quantize b0 b1) = b1 &&& 0x3F := by
  have hbits : ∀ b : Byte, 0#2 ++ (b.extractLsb' 4 2).extractLsb' 0 2 ++ b.extractLsb' 0 4 = b &&& 0x3F := by decide
  rw [wireByte1, quantize, wireChannel_expand, wireChannel_expand, extractLsb'_append_low _ _ _ _ (Nat.le_refl 2), hbits]

/-- Color `k` stands at bytes `2k` and `2k + 1` (R80). -/
theorem clutPayload_get (es : Vector Rgb 8) {i : Nat} (hi : i < 16) :
    (clutPayload es)[i] = if i % 2 = 0 then wireByte0 es[i / 2] else wireByte1 es[i / 2] := by
  interval_cases i <;> rfl

theorem clutPayload_clutEntries (rec : Record) :
    clutPayload (clutEntries rec) = maskedPayload rec (Vector.replicate 16 0x3F) := by
  ext i hi : 1
  rw [maskedPayload_get rec _ hi, Vector.getElem_replicate, clutPayload_get _ hi]
  simp only [clutEntries, Vector.getElem_ofFn, wireByte0_quantize, wireByte1_quantize]
  split
  · next heven => simp only [show 2 * (i / 2) = i by omega]
  · next hodd => simp only [show 2 * (i / 2) + 1 = i by omega]

theorem payloadMask_of_no_fields {n : Nat} (h : n ∉ [1, 2, 6, 30, 31, 38]) : payloadMask n = emptyPayload := by
  unfold payloadMask
  split
  case h_7 => rfl
  all_goals exact absurd (by decide) h

theorem payloadOf_decodeGraphics_of_no_fields (rec : Record) {n : Nat} (h : n ∉ [1, 2, 6, 30, 31, 38]) :
    payloadOf (decodeGraphics rec n) = emptyPayload := by
  unfold decodeGraphics
  split
  case h_2 | h_3 | h_7 | h_31 | h_32 | h_39 => exact absurd (by decide) h
  all_goals rfl

theorem payloadOf_memoryPreset (rec : Record) : payloadOf (decodeGraphics rec 1) = maskedPayload rec (payloadMask 1) := by
  ext i hi : 1
  rw [maskedPayload_get rec _ hi]
  rcases Nat.lt_or_ge i 2 with hfield | hunnamed
  · interval_cases i <;> exact zext8_low_nibble _
  · interval_cases i <;> exact BitVec.and_zero.symm

theorem payloadOf_borderPreset (rec : Record) : payloadOf (decodeGraphics rec 2) = maskedPayload rec (payloadMask 2) := by
  ext i hi : 1
  rw [maskedPayload_get rec _ hi]
  rcases Nat.lt_or_ge i 1 with hfield | hunnamed
  · interval_cases i
    exact zext8_low_nibble _
  · interval_cases i <;> exact BitVec.and_zero.symm

/-- Each format keeps exactly the payload bits that its mask names (R76 to R80). -/
theorem payloadOf_decodeGraphics (rec : Record) (n : Nat) :
    payloadOf (decodeGraphics rec n) = maskedPayload rec (payloadMask n) := by
  by_cases h : n ∈ [1, 2, 6, 30, 31, 38]
  · simp only [List.mem_cons, List.not_mem_nil, or_false] at h
    rcases h with rfl | rfl | rfl | rfl | rfl | rfl
    · exact payloadOf_memoryPreset rec
    · exact payloadOf_borderPreset rec
    · exact tilePayload_tileFields rec
    · exact clutPayload_clutEntries rec
    · exact clutPayload_clutEntries rec
    · exact tilePayload_tileFields rec
  · rw [payloadOf_decodeGraphics_of_no_fields rec h, payloadMask_of_no_fields h, maskedPayload_emptyPayload]

/-- Settles O7: the command, the code and the payload are each restored under their masks. -/
theorem encodeRestoresNamedBits : Obligations.EncodeRestoresNamedBits := by
  intro rec hc
  have hcommand : commandByteOf (decode rec) = rec[0] &&& 0x3F := by
    rw [decode_of_command hc, commandByteOf_decodeGraphics, ← setWidth_low_code]
    exact congrArg (BitVec.setWidth 8) hc.symm
  have hcode : BitVec.ofNat 8 (codeOf (decode rec)) = rec[1] &&& 0x3F := by
    rw [codeOf_decode hc, BitVec.ofNat_toNat, ← setWidth_low_code]
    rfl
  have hpayload : payloadOf (decode rec) = maskedPayload rec (payloadMask (instrCode rec).toNat) := by
    rw [decode_of_command hc, payloadOf_decodeGraphics]
  rw [encode, hcommand, hcode, hpayload]
  rfl

/-- Settles O8: a record's named bits and its instruction determine each other, by the two round trips. -/
theorem onlyNamedBitsDecide : Obligations.OnlyNamedBitsDecide := by
  intro rec rec' hc hc'
  rw [← encodeRestoresNamedBits rec hc, ← encodeRestoresNamedBits rec' hc']
  refine ⟨congrArg encode, fun h => ?_⟩
  calc decode rec = decode (encode (decode rec)) := (decodeReadsBackEncode _ (decode_wf rec)).symm
    _ = decode (encode (decode rec')) := congrArg decode h
    _ = decode rec' := decodeReadsBackEncode _ (decode_wf rec')

end Sys2Proof
end

section
/-! PROOFS. The opcode table (R73, R74): which row matches a record's key, and that the decoder takes that row's arm. -/
namespace Sys2Proof

/-- The graphics rows carry the names of the decoder's arms, in the order of their codes; no name depends on the record. -/
theorem opcodeTable_eq_arms (rec : Record) : opcodeTable =
    (List.range 64).map (fun n => graphicsRow (mnemonicOf (decodeGraphics rec n)) n) ++ [nonGraphicsRow] := rfl

theorem mem_opcodeTable (rec : Record) {row : OpcodeRow} : row ∈ opcodeTable ↔
    (∃ n < 64, graphicsRow (mnemonicOf (decodeGraphics rec n)) n = row) ∨ row = nonGraphicsRow := by
  rw [opcodeTable_eq_arms rec]
  simp only [List.mem_append, List.mem_map, List.mem_range, List.mem_singleton]

/-- A key under a mask that names the command code: the command, then what the mask leaves of the second byte. -/
theorem toNat_decodeKey_and (rec : Record) (low : Byte) :
    (decodeKey rec &&& (0x3F#8 ++ low)).toNat = (commandCode rec).toNat * 256 + (rec[1] &&& low).toNat := by
  rw [decodeKey, BitVec.and_append, toNat_append_add, commandCode, toNat_low6]
  rfl

theorem commandCode_eq_nine_iff {rec : Record} : commandCode rec = 9 ↔ (commandCode rec).toNat = 9 :=
  (BitVec.toNat_inj (y := 9)).symm

/-- A graphics row matches the keys of command 9 and its own code (R73). -/
theorem rowMatches_graphicsRow (mnemonic : String) {n : Nat} (hn : n < 64) (rec : Record) :
    rowMatches (graphicsRow mnemonic n) (decodeKey rec) = true ↔ commandCode rec = 9 ∧ (instrCode rec).toNat = n := by
  have hkey : (decodeKey rec &&& 0x3F3F).toNat = (commandCode rec).toNat * 256 + (instrCode rec).toNat :=
    (toNat_decodeKey_and rec 0x3F).trans (by rw [instrCode, toNat_low6])
  have hcode := (instrCode rec).isLt
  rw [commandCode_eq_nine_iff]
  simp only [rowMatches, graphicsRow, Bool.bne_false, beq_iff_eq, ← BitVec.toNat_inj, hkey, BitVec.toNat_ofNat]
  omega

/-- The last row matches the keys of every other command (R74). -/
theorem rowMatches_nonGraphicsRow (rec : Record) :
    rowMatches nonGraphicsRow (decodeKey rec) = true ↔ commandCode rec ≠ 9 := by
  have hkey : (decodeKey rec &&& 0x3F00).toNat = (commandCode rec).toNat * 256 :=
    (toNat_decodeKey_and rec 0).trans (by simp)
  have hpattern : (0x0900 : BitVec 16).toNat = 0x0900 := rfl
  rw [ne_eq, commandCode_eq_nine_iff]
  simp only [rowMatches, nonGraphicsRow, Bool.bne_true, Bool.not_eq_true', beq_eq_false_iff_ne, ne_eq,
    ← BitVec.toNat_inj, hkey, hpattern]
  omega

theorem exists_decodeKey_eq (key : BitVec 16) : ∃ rec : Record, decodeKey rec = key :=
  ⟨makeRecord (key.extractLsb' 8 8) (key.extractLsb' 0 8) emptyPayload, BitVec.extractLsb'_append_extractLsb'⟩

/-- Settles O10: command 9 leaves the row of the instruction code, any other command the last row. -/
theorem oneOpcodeRowPerKey : Obligations.OneOpcodeRowPerKey := by
  intro key
  obtain ⟨rec, rfl⟩ := exists_decodeKey_eq key
  by_cases hc : commandCode rec = 9
  · have hcode := (instrCode rec).isLt
    refine ⟨_, (mem_opcodeTable rec).2 (.inl ⟨_, hcode, rfl⟩), (rowMatches_graphicsRow _ hcode rec).2 ⟨hc, rfl⟩, ?_⟩
    intro row' hmem hmatch
    obtain ⟨n, hn, rfl⟩ | rfl := (mem_opcodeTable rec).1 hmem
    · rw [((rowMatches_graphicsRow _ hn rec).1 hmatch).2]
    · exact absurd hc ((rowMatches_nonGraphicsRow rec).1 hmatch)
  · refine ⟨_, (mem_opcodeTable rec).2 (.inr rfl), (rowMatches_nonGraphicsRow rec).2 hc, ?_⟩
    intro row' hmem hmatch
    obtain ⟨n, hn, rfl⟩ | rfl := (mem_opcodeTable rec).1 hmem
    · exact absurd ((rowMatches_graphicsRow _ hn rec).1 hmatch).1 hc
    · rfl

/-- Settles O11: a matching graphics row is the one of the arm that the decoder takes. -/
theorem decodeFollowsOpcodeTable : Obligations.DecodeFollowsOpcodeTable := by
  intro rec row hmem hmatch
  obtain ⟨n, hn, rfl⟩ | rfl := (mem_opcodeTable rec).1 hmem
  · obtain ⟨hc, rfl⟩ := (rowMatches_graphicsRow _ hn rec).1 hmatch
    rw [decode_of_command hc]
    rfl
  · rw [decode_of_not_command ((rowMatches_nonGraphicsRow rec).1 hmatch)]
    rfl

end Sys2Proof
end

section
/-! PROOFS. The fixed-width bus (R83, D9) carries everything the applicator needs of an instruction that a record can carry. -/
namespace Sys2Proof.Machine

/-- What the decoder reports of an instruction, by the instruction's own code (R104). -/
def instrReport (i : Instr) (s : State) : State :=
  if codeOf i ∈ [0, 1, 2, 6, 30, 31, 38] then s else unknownInstr (BitVec.ofNat 6 (codeOf i)) s

theorem codeReported_iff {rec : Record} :
    codeReported rec = true ↔ commandCode rec = 9 ∧ (instrCode rec).toNat ∉ [0, 1, 2, 6, 30, 31, 38] := by
  rw [codeReported, Bool.and_eq_true, beq_iff_eq, Bool.not_eq_true', ← Bool.not_eq_true, List.contains_iff_mem]

theorem decoderReport_eq (rec : Record) (s : State) : decoderReport rec s = instrReport (decode rec) s := by
  simp only [decoderReport, codeReported_iff]
  by_cases hc : commandCode rec = 9
  · simp only [hc, true_and, ite_not, instrReport, codeOf_decode hc, unknownInstr, BitVec.ofNat_toNat, BitVec.setWidth_eq]
  · rw [decode_of_not_command hc, if_neg (not_and.2 fun h => absurd h hc)]
    rfl

/-- Nine bits hold every row offset of a record (R83). -/
theorem toNat_busRow {row : Nat} (h : wfRow row = true) : (BitVec.ofNat 9 row).toNat = row := by
  have := (wfRow_iff.1 h).2
  rw [BitVec.toNat_ofNat, Nat.mod_eq_of_lt (by omega)]

theorem toNat_busColumn {column : Nat} (h : wfColumn column = true) : (BitVec.ofNat 9 column).toNat = column := by
  have := (wfColumn_iff.1 h).2
  rw [BitVec.toNat_ofNat, Nat.mod_eq_of_lt (by omega)]

/-- The five fields that both tile blocks read from the bus, handed to either meaning. -/
theorem tileFields_tileBus {α : Type} (tile : Nibble → Nibble → Nat → Nat → Vector Byte 12 → α) (tag : BitVec 3)
    (c0 c1 : Nibble) {row column : Nat} (hrow : wfRow row = true) (hcolumn : wfColumn column = true) (bm : Vector Byte 12) :
    let b := tileBus tag c0 c1 row column bm
    tile b.color0 b.color1 b.row.toNat b.column.toNat (busBitmap b.bitmap) = tile c0 c1 row column bm := by
  show tile c0 c1 (BitVec.ofNat 9 row).toNat (BitVec.ofNat 9 column).toNat (busBitmap (packBitmap bm)) = _
  rw [toNat_busRow hrow, toNat_busColumn hcolumn, busBitmap_packBitmap]

/-- The applicator on the bus of an instruction that a record can carry, after the decoder's report (R83, R120). -/
theorem applyBus_busOf {i : Instr} (hi : i.wf = true) (s : State) : applyBus (busOf i) (instrReport i s) = exec i s := by
  cases i with
  | tileBlock c0 c1 row column bm =>
    obtain ⟨hrow, hcolumn⟩ := Bool.and_eq_true_iff.1 hi
    exact tileFields_tileBus (execTileBlock · · · · · s) 3 c0 c1 hrow hcolumn bm
  | tileBlockXor c0 c1 row column bm =>
    obtain ⟨hrow, hcolumn⟩ := Bool.and_eq_true_iff.1 hi
    exact tileFields_tileBus (execTileBlockXor · · · · · s) 4 c0 c1 hrow hcolumn bm
  | loadColorTableLow es => exact congrArg (execLoadColorTableLow · s) (busEntries_packEntries es)
  | loadColorTableHigh es => exact congrArg (execLoadColorTableHigh · s) (busEntries_packEntries es)
  | _ => rfl

/-- Settles O29: what a record decodes to fits the bus, and the decoder reports what the instruction's code says. -/
theorem busApplicatorAgreesWithExec : Obligations.BusApplicatorAgreesWithExec := fun rec s => by
  rw [recordOverBus, decoderReport_eq, applyBus_busOf (decode_wf rec)]

end Sys2Proof.Machine
end

section
/-! PROOFS. The decoder on every record: what it hands to the applicator is well formed (R100), the quantizer's scaling law
(R103), and which records are reported (R104, R105). -/
namespace Sys2Proof

/-- Settles O9: every arm of the decoder fills its operands from fields of the right width. -/
theorem decodeIsAlwaysWellFormed : Obligations.DecodeIsAlwaysWellFormed := decode_wf

/-- Settles O5: 255 is 15 times 17, so the truncating division is exact. -/
theorem expandScalesExactly : Obligations.ExpandScalesExactly := fun v => by
  refine ⟨toNat_expand v, ?_⟩
  rw [toNat_expand]
  omega

/-- Settles O12: each record is decoded by computation. -/
theorem workedRecordsDecode : Obligations.WorkedRecordsDecode := ⟨rfl, rfl, rfl, rfl, rfl, rfl⟩

end Sys2Proof

namespace Sys2Proof.Machine

/-- The report of R104 as the spec writes it, on the 6-bit instruction code itself. -/
theorem codeReported_iff_instrCode {rec : Record} :
    codeReported rec = true ↔ commandCode rec = 9 ∧ instrCode rec ∉ [0, 1, 2, 6, 30, 31, 38] := by
  have hcode : ∀ k : BitVec 6, k.toNat ∈ [0, 1, 2, 6, 30, 31, 38] ↔ k ∈ [0, 1, 2, 6, 30, 31, 38] := by decide
  rw [codeReported_iff, hcode]

/-- The decoder reports exactly the records whose instruction has a code outside the seven implemented ones. -/
theorem codeOf_decode_mem_iff {rec : Record} :
    codeOf (decode rec) ∈ [0, 1, 2, 6, 30, 31, 38] ↔ codeReported rec = false := by
  rw [← Bool.not_eq_true, codeReported_iff]
  by_cases hc : commandCode rec = 9
  · simp only [codeOf_decode hc, hc, true_and, not_not]
  · rw [decode_of_not_command hc]
    exact iff_of_true (by decide) fun h => hc h.1

/-- An instruction of any other code does nothing but report that code (R104, R105). -/
theorem exec_of_unimplemented {i : Instr} (hi : codeOf i ∉ [0, 1, 2, 6, 30, 31, 38]) (s : State) :
    exec i s = .next (unknownInstr (BitVec.ofNat 6 (codeOf i)) s) := by
  cases i with
  | nop | memoryPreset | borderPreset | tileBlock | loadColorTableLow | loadColorTableHigh | tileBlockXor | nonGraphics =>
    exact absurd (by simp [codeOf]) hi
  | _ => rfl

/-- An implemented instruction leaves the diagnostic, or reports a tile outside the grid (R144). -/
theorem diag_of_implemented {i : Instr} (hi : codeOf i ∈ [0, 1, 2, 6, 30, 31, 38]) {s t : State} (h : exec i s = .next t) :
    t.diag = s.diag ∨ ∃ code, t = tileOutOfRange code s := by
  cases i with
  | memoryPreset c r =>
    cases (exec_memoryPreset c r s).symm.trans h
    split <;> exact .inl rfl
  | borderPreset c =>
    cases (exec_borderPreset c s).symm.trans h
    exact .inl rfl
  | tileBlock c0 c1 row col bm =>
    cases (exec_tileBlock c0 c1 row col bm s).symm.trans h
    split
    · exact .inr ⟨6, rfl⟩
    · exact .inl rfl
  | tileBlockXor c0 c1 row col bm =>
    cases (exec_tileBlockXor c0 c1 row col bm s).symm.trans h
    split
    · exact .inr ⟨38, rfl⟩
    · exact .inl rfl
  | nop | loadColorTableLow | loadColorTableHigh | nonGraphics =>
    cases h
    exact .inl rfl
  | _ => exact absurd hi (by decide)

/-- A reported record's whole effect (R104, R105). -/
theorem exec_decode_of_codeReported {rec : Record} (h : codeReported rec = true) (s : State) :
    exec (decode rec) s = .next (unknownInstr (instrCode rec) s) := by
  have hcode : codeOf (decode rec) ∉ [0, 1, 2, 6, 30, 31, 38] := fun hm => by simp [codeOf_decode_mem_iff.1 hm] at h
  rw [exec_of_unimplemented hcode, codeOf_decode (codeReported_iff.1 h).1, BitVec.ofNat_toNat, BitVec.setWidth_eq]

/-- A record that is not reported raises no UNKNOWN_INSTR. -/
theorem diag_ne_unknownInstr_of_not_codeReported {rec : Record} (h : codeReported rec = false) {s t : State}
    (hs : s.diag = none) (ht : exec (decode rec) s = .next t) {d : Diagnostic} (hd : t.diag = some d) :
    d.kind ≠ .unknownInstr := by
  obtain hkept | ⟨code, rfl⟩ := diag_of_implemented (codeOf_decode_mem_iff.2 h) ht
  · rw [hkept, hs] at hd
    cases hd
  · cases hd
    nofun

/-- Settles O13: a reported record does nothing but report its code, and any other raises no UNKNOWN_INSTR. -/
theorem unknownCodesReportedExactly : Obligations.UnknownCodesReportedExactly := by
  intro rec s hs
  rw [← codeReported_iff_instrCode]
  cases hr : codeReported rec with
  | true =>
    exact ⟨_, exec_decode_of_codeReported hr s, iff_of_true ⟨_, rfl, rfl⟩ rfl, fun _ _ => rfl⟩
  | false =>
    obtain ⟨t, ht, -⟩ := exec_effect (decode rec) s
    refine ⟨t, ht, iff_of_false ?_ nofun, fun hc hk => ?_⟩
    · rintro ⟨d, hd, hkind⟩
      exact diag_ne_unknownInstr_of_not_codeReported hr hs ht hd hkind
    · rw [codeReported_iff_instrCode.2 ⟨hc, hk⟩] at hr
      cases hr

end Sys2Proof.Machine
end

section
/-! PROOFS. NoOp, the two presets (R121 to R125) and the bus tag that no record produces (R126). -/
namespace Sys2Proof.Machine

/-! ### NoOp and MemoryPreset -/

/-- Settles O14: code 0 selects the first arm of the decoder, and that arm's meaning answers the state itself. -/
theorem nopLeavesTheState : Obligations.NopLeavesTheState := ⟨fun _ => decode_of_codes, fun _ => rfl⟩

theorem rectCovers_wholeGrid {y x : Nat} (hy : y < 216) (hx : x < 300) : rectCovers wholeGrid y x = true :=
  rectCovers_iff.2 ⟨Nat.zero_le y, by simpa [wholeGrid] using hy, Nat.zero_le x, by simpa [wholeGrid] using hx⟩

/-- Settles O15: the nonzero repeat answers the state itself; otherwise the drawing covers every cell of the grid. -/
theorem memoryPresetFillsOnRepeatZero : Obligations.MemoryPresetFillsOnRepeatZero := by
  refine ⟨fun _ => decode_of_codes, fun color rep s hm => ⟨fun hrep => ?_, fun hrep => ?_⟩⟩
  · rw [exec_memoryPreset, if_pos hrep]
  · refine ⟨s.setFb (rectUpdate wholeGrid (fun _ _ _ => zext8 color) s.fb), ?_, rfl, fun y x hy hx => ?_⟩
    · rw [exec_memoryPreset, if_neg (not_not.2 hrep)]
    · rw [cell_rectUpdate (rectInGrid_iff.1 rectInGrid_wholeGrid).2 _ (rising_of_memoryWf hm) hx,
        if_pos (rectCovers_wholeGrid hy hx)]

/-! ### BorderPreset -/

/-- The cells that the three rectangles of a BorderPreset cover (R124); none is in rows 204 to 215 (R125). -/
theorem borderCovers_iff {y x : Nat} (hx : x < 300) :
    (rectCovers rightBorder y x = true ∨ rectCovers leftBorder y x = true ∨ rectCovers topBorder y x = true) ↔
      y ≤ 11 ∨ (12 ≤ y ∧ y ≤ 203 ∧ (x ≤ 5 ∨ 294 ≤ x)) := by
  simp only [rectCovers_iff, rightBorder, leftBorder, topBorder]
  omega

/-- What every cell of the grid holds after a BorderPreset. -/
theorem cell_borderFb (c : Nibble) {s : State} (hm : memoryWf s.fb = true) {y x : Nat} (hx : x < 300) :
    cell (s.setFb (borderFb c s.fb)) y x =
      if y ≤ 11 ∨ (12 ≤ y ∧ y ≤ 203 ∧ (x ≤ 5 ∨ 294 ≤ x)) then zext8 c else cell s y x := by
  have hread := memRead_borderFb c hm (cellAddr y x)
  rw [addrRow_cellAddr hx, addrColumn_cellAddr hx] at hread
  simp only [borderCovers_iff hx] at hread
  exact hread

/-- Settles O16: the three drawings lie inside the grid, so BorderPreset completes, and only the cells they cover change. -/
theorem borderPresetPaintsTopAndSides : Obligations.BorderPresetPaintsTopAndSides :=
  ⟨fun _ => decode_of_codes, fun color s hm =>
    ⟨s.setFb (borderFb color s.fb), exec_borderPreset color s, rfl, fun _ _ _ => cell_borderFb color hm⟩⟩

/-! ### The unknown tag -/

theorem applyBus_of_tag_seven {b : Bus} (h : b.tag = 7) (s : State) : applyBus b s = .next (raiseDiag .unknownTag 7 s) := by
  rw [applyBus, h]
  rfl

/-- Settles O27: tag 7 takes the last arm of the applicator, which raises the diagnostic and does nothing else. -/
theorem unknownTagOnlyReports : Obligations.UnknownTagOnlyReports := fun _ s h => applyBus_of_tag_seven h s

/-- The decoder uses tags 0 to 6 only, whatever the instruction (R83, R101). -/
theorem busOf_tag_ne_seven (i : Instr) : (busOf i).tag ≠ 7 := by
  fun_cases busOf i <;> exact ne_of_beq_false rfl

/-- Settles O28: not even an instruction that no record carries has tag 7. -/
theorem decoderNeverProducesTagSeven : Obligations.DecoderNeverProducesTagSeven := fun rec => busOf_tag_ne_seven (decode rec)

end Sys2Proof.Machine
end

section
/-! PROOFS. The two tile blocks (R140 to R144): which cells a tile covers and what they become, the range check, and that
TileBlockXor undoes itself. -/
namespace Sys2Proof.Machine

/-! ### The bit test and the range check -/

/-- The test with the mask `0x20 >> j` reads bit `5 - j` of the bitmap byte (R140). -/
theorem sel_eq_getLsbD (bm : Vector Byte 12) (i : Fin 12) (j : Fin 6) (c0 c1 : Nibble) :
    sel bm i j c0 c1 = if bm[i].getLsbD (5 - j) then c1 else c0 := by
  have hbit : ∀ (b : Byte) (k : Fin 6), b &&& (0x20#8 >>> k.val) ≠ 0 ↔ b.getLsbD (5 - k) = true := by decide
  have hbyte : bm.toList.getD i 0 = bm[i] := by simp
  simp only [sel, hbyte, hbit]

theorem tileOutside_eq_true_iff {row column : Nat} :
    tileOutside row column = true ↔ row + 12 > 216 ∨ column + 6 > 300 := by
  simp [tileOutside]

/-- The range check speaks of tile indices: 18 rows and 50 columns of tiles fit the grid (R144). -/
theorem tileOutside_of_record_iff (rec : Record) : tileOutside (tileRow rec) (tileColumn rec) = true ↔
    18 ≤ (payload rec 2 &&& 0x1F).toNat ∨ 50 ≤ (payload rec 3 &&& 0x3F).toNat := by
  rw [tileOutside_eq_true_iff, tileRow_eq_masked, tileColumn_eq_masked]
  omega

/-- TILE_OOB is bit 2 of `STATUS`, and nothing else of the state changes but the diagnostic (R144, R214). -/
theorem tileOutOfRange_eq (code : BitVec 6) (s : State) : tileOutOfRange code s =
    { s with status := s.status ||| 0x04#8, diag := some { kind := .tileOob, code := code } } := rfl

/-! ### Drawing a tile -/

/-- The memory after a tile is drawn: `paint` combines the old value of each of the 72 cells with the color that its bit
selects. -/
def tileFb (paint : Byte → Nibble → Byte) (c0 c1 : Nibble) (row column : Nat) (bm : Vector Byte 12) (m : Memory) : Memory :=
  rectUpdate (tileRect row column) (fun y x v => paint v (sel bm (y - row) (x - column) c0 c1)) m

/-- R141 replaces the old value. -/
def overwrite (_ : Byte) (color : Nibble) : Byte := zext8 color

/-- R142 combines with the old value. -/
def xorInto (old : Byte) (color : Nibble) : Byte := old ^^^ zext8 color

section
variable (c0 c1 : Nibble) {row column : Nat} (bm : Vector Byte 12) (s : State)

theorem exec_tileBlock_inside (h : row + 12 ≤ 216 ∧ column + 6 ≤ 300) :
    exec (.tileBlock c0 c1 row column bm) s = .next (s.setFb (tileFb overwrite c0 c1 row column bm s.fb)) := by
  rw [exec_tileBlock, tileOutside_eq_false_iff.2 h]
  rfl

theorem exec_tileBlock_outside (h : row + 12 > 216 ∨ column + 6 > 300) :
    exec (.tileBlock c0 c1 row column bm) s = .next (tileOutOfRange 6 s) := by
  rw [exec_tileBlock, if_pos (tileOutside_eq_true_iff.2 h)]

theorem exec_tileBlockXor_inside (h : row + 12 ≤ 216 ∧ column + 6 ≤ 300) :
    exec (.tileBlockXor c0 c1 row column bm) s = .next (s.setFb (tileFb xorInto c0 c1 row column bm s.fb)) := by
  rw [exec_tileBlockXor, tileOutside_eq_false_iff.2 h]
  rfl

theorem exec_tileBlockXor_outside (h : row + 12 > 216 ∨ column + 6 > 300) :
    exec (.tileBlockXor c0 c1 row column bm) s = .next (tileOutOfRange 38 s) := by
  rw [exec_tileBlockXor, if_pos (tileOutside_eq_true_iff.2 h)]

variable (paint : Byte → Nibble → Byte) (hcol : column + 6 ≤ 300) {s} (hm : memoryWf s.fb = true)
include hcol hm

theorem cell_tileFb_of_covered (i : Fin 12) (j : Fin 6) :
    cell (s.setFb (tileFb paint c0 c1 row column bm s.fb)) (row + i) (column + j) =
      paint (cell s (row + i) (column + j)) (if bm[i].getLsbD (5 - j) then c1 else c0) := by
  have hcovers : rectCovers (tileRect row column) (row + i) (column + j) = true := by
    simp only [rectCovers_iff, tileRect]
    omega
  rw [tileFb, cell_rectUpdate hcol _ (rising_of_memoryWf hm) (by omega), if_pos hcovers, Nat.add_sub_cancel_left,
    Nat.add_sub_cancel_left, sel_eq_getLsbD]

theorem cell_tileFb_of_not_covered {y x : Nat} (hx : x < 300)
    (h : ¬(row ≤ y ∧ y < row + 12 ∧ column ≤ x ∧ x < column + 6)) :
    cell (s.setFb (tileFb paint c0 c1 row column bm s.fb)) y x = cell s y x := by
  rw [tileFb, cell_rectUpdate hcol _ (rising_of_memoryWf hm) hx, if_neg (mt rectCovers_iff.1 h)]

end

/-- Settles O17: the drawing reaches the cells of the tile's rectangle only; the range check comes before it. -/
theorem tileBlockOverwritesItsTile : Obligations.TileBlockOverwritesItsTile := by
  intro c0 c1 row column bm s hm
  refine ⟨fun hin => ⟨_, exec_tileBlock_inside c0 c1 bm s hin, rfl, ?_, ?_⟩, fun hout => ?_⟩
  · exact cell_tileFb_of_covered c0 c1 bm overwrite hin.2 hm
  · exact fun _ _ _ hx => cell_tileFb_of_not_covered c0 c1 bm overwrite hin.2 hm hx
  · rw [exec_tileBlock_outside c0 c1 bm s hout, tileOutOfRange_eq]

/-- Settles O18: as TileBlock, with the old value of each cell combined in. -/
theorem tileBlockXorCombinesItsTile : Obligations.TileBlockXorCombinesItsTile := by
  intro c0 c1 row column bm s hm
  refine ⟨fun hin => ⟨_, exec_tileBlockXor_inside c0 c1 bm s hin, rfl, ?_, ?_⟩, fun hout => ?_⟩
  · exact cell_tileFb_of_covered c0 c1 bm xorInto hin.2 hm
  · exact fun _ _ _ hx => cell_tileFb_of_not_covered c0 c1 bm xorInto hin.2 hm hx
  · rw [exec_tileBlockXor_outside c0 c1 bm s hout, tileOutOfRange_eq]

/-! ### Tile records -/

/-- Both tile codes: the range check on the record's fields, then either the report under the record's own code or a
drawing, which changes the framebuffer only. -/
theorem exec_tileRecord {rec : Record} (hc : commandCode rec = 9) (hk : instrCode rec = 6 ∨ instrCode rec = 38) (s : State) :
    ∃ m, exec (decode rec) s = .next (if tileOutside (tileRow rec) (tileColumn rec) then tileOutOfRange (instrCode rec) s
      else s.setFb m) := by
  obtain hk | hk := hk
  · rw [decode_of_codes hc hk, hk]
    exact ⟨_, exec_tileBlock _ _ (tileRow rec) (tileColumn rec) _ s⟩
  · rw [decode_of_codes hc hk, hk]
    exact ⟨_, exec_tileBlockXor _ _ (tileRow rec) (tileColumn rec) _ s⟩

/-- Settles O19: the range check decides between the report and the drawing, and it is a test of the tile indices. -/
theorem tileIndexDecidesOutOfRange : Obligations.TileIndexDecidesOutOfRange := by
  intro rec s hc hk
  obtain ⟨m, hexec⟩ := exec_tileRecord hc hk s
  refine ⟨fun hout => ?_, fun hin => ⟨s.setFb m, ?_, rfl, rfl⟩⟩
  · rw [hexec, if_pos ((tileOutside_of_record_iff rec).2 hout), tileOutOfRange_eq]
  · have hinside := mt (tileOutside_of_record_iff rec).1 (by omega)
    rw [hexec, if_neg hinside]

/-! ### TileBlockXor twice -/

/-- A drawing with a function that undoes itself on every cell undoes itself. -/
theorem rectUpdate_involutive {q : Rect} (hq : rectInGrid q = true) {f : Nat → Nat → Byte → Byte}
    (hf : ∀ y x, Function.Involutive (f y x)) {m : Memory} (hm : memoryWf m = true) :
    rectUpdate q f (rectUpdate q f m) = m := by
  have hw := (rectInGrid_iff.1 hq).2
  have hm₁ := memoryWf_rectUpdate hq f hm
  refine memory_ext (memoryWf_rectUpdate hq f hm₁) hm fun a => ?_
  rw [memRead_rectUpdate hw f (rising_of_memoryWf hm₁), memRead_rectUpdate hw f (rising_of_memoryWf hm)]
  split
  · exact hf _ _ _
  · rfl

theorem xorInto_involutive (color : Nibble) : Function.Involutive (xorInto · color) := fun old => by
  simp only [xorInto, BitVec.xor_assoc, BitVec.xor_self, BitVec.xor_zero]

/-- Settles O20: inside the grid the selected color cancels on every cell; outside it no cell is written. -/
theorem tileBlockXorTwiceRestores : Obligations.TileBlockXorTwiceRestores := by
  intro c0 c1 row column bm s hm
  by_cases hin : row + 12 ≤ 216 ∧ column + 6 ≤ 300
  · exact ⟨_, _, exec_tileBlockXor_inside c0 c1 bm s hin, exec_tileBlockXor_inside c0 c1 bm _ hin,
      rectUpdate_involutive (rectInGrid_iff.2 hin) (fun _ _ => xorInto_involutive _) hm, rfl⟩
  · have hout : row + 12 > 216 ∨ column + 6 > 300 := by omega
    exact ⟨_, _, exec_tileBlockXor_outside c0 c1 bm s hout, exec_tileBlockXor_outside c0 c1 bm _ hout, rfl, rfl⟩

end Sys2Proof.Machine
end

section
/-! PROOFS. The two color table loads (R160 to R163): which half a load writes, which it keeps, and how cells look after it. -/
namespace Sys2Proof.Machine

/-! ### The entries after a load -/

theorem exec_loadColorTableLow (es : Vector Rgb 8) (s : State) :
    exec (.loadColorTableLow es) s = .next (s.setCt (loadHalf 0 es s.ct)) := rfl

theorem exec_loadColorTableHigh (es : Vector Rgb 8) (s : State) :
    exec (.loadColorTableHigh es) s = .next (s.setCt (loadHalf 8 es s.ct)) := rfl

section
variable {base : Nat} (es : Vector Rgb 8) (ct : Vector ColorEntry 16)

/-- Entry `base + k` takes color `k`. -/
theorem loadHalf_get_loaded (k : Fin 8) {i : Nat} (hi : i < 16) (h : i = base + k) :
    (loadHalf base es ct)[i] = opaqueEntry es[k] := by
  subst h
  rw [loadHalf_get, dif_pos (by omega)]
  simp only [Nat.add_sub_cancel_left, Fin.getElem_fin]

/-- The entries below `base` and from `base + 8` up stay. -/
theorem loadHalf_get_kept {i : Nat} (hi : i < 16) (h : i < base ∨ base + 8 ≤ i) : (loadHalf base es ct)[i] = ct[i] := by
  rw [loadHalf_get _ _ _ i hi, dif_neg (by omega)]

variable (k : Fin 8)

theorem loadLow_get_low : (loadHalf 0 es ct)[k.val] = opaqueEntry es[k] :=
  loadHalf_get_loaded es ct k _ (Nat.zero_add _).symm

theorem loadLow_get_high : (loadHalf 0 es ct)[8 + k.val] = ct[8 + k.val] := loadHalf_get_kept es ct _ (by omega)

theorem loadHigh_get_high : (loadHalf 8 es ct)[8 + k.val] = opaqueEntry es[k] := loadHalf_get_loaded es ct k _ rfl

theorem loadHigh_get_low : (loadHalf 8 es ct)[k.val] = ct[k.val] := loadHalf_get_kept es ct _ (by omega)

end

/-- Settles O21: the low load is `loadHalf` at entry 0, and `opaqueEntry` writes alpha 0xFF. -/
theorem loadLowWritesEntriesZeroToSeven : Obligations.LoadLowWritesEntriesZeroToSeven := fun es s =>
  ⟨_, exec_loadColorTableLow es s, rfl, loadLow_get_low es s.ct, loadLow_get_high es s.ct⟩

/-- Settles O22: the high load is `loadHalf` at entry 8, and `opaqueEntry` writes alpha 0xFF. -/
theorem loadHighWritesEntriesEightToFifteen : Obligations.LoadHighWritesEntriesEightToFifteen := fun es s =>
  ⟨_, exec_loadColorTableHigh es s, rfl, loadHigh_get_high es s.ct, loadHigh_get_low es s.ct⟩

/-- Settles O23: each load writes its own half and keeps what the load before it left in the other. -/
theorem lowAndHighLoadsAreIndependent : Obligations.LowAndHighLoadsAreIndependent := by
  intro low high low' s
  refine ⟨_, _, _, exec_loadColorTableLow low s, exec_loadColorTableHigh high _, exec_loadColorTableLow low' _,
    fun k => ⟨?_, ?_⟩, fun k => ⟨?_, ?_⟩⟩
  · exact (loadHigh_get_low high _ k).trans (loadLow_get_low low s.ct k)
  · exact loadHigh_get_high high _ k
  · exact loadLow_get_low low' _ k
  · exact (loadLow_get_high low' _ k).trans (loadHigh_get_high high _ k)

/-! ### How cells look after a load -/

@[simp] theorem cell_setCt (s : State) (ct : Vector ColorEntry 16) (y x : Nat) : cell (s.setCt ct) y x = cell s y x := rfl

/-- The clamp does not touch an index of the table (R182). -/
theorem clampIndex_of_lt {v : Byte} (h : v.toNat < 16) : clampIndex v = ⟨v.toNat, h⟩ :=
  Fin.ext (Nat.min_eq_left (Nat.le_of_lt_succ h))

/-- A value is looked up as the color whose stored entry its index selects. -/
theorem lut_eq_of_opaqueEntry {ct : Vector ColorEntry 16} {v : Byte} {e : Rgb} (hv : v.toNat < 16)
    (he : ct[v.toNat] = opaqueEntry e) : lut ct v = e := by
  simp only [lut, clampIndex_of_lt hv, Fin.getElem_fin, he, opaqueEntry]

/-- An index of the loaded half is looked up as the color loaded for it (R163). -/
theorem lut_loadHalf {base : Nat} (es : Vector Rgb 8) (ct : Vector ColorEntry 16) {v : Byte} (k : Fin 8)
    (hv : v.toNat < 16) (h : v.toNat = base + k) : lut (loadHalf base es ct) v = es[k] :=
  lut_eq_of_opaqueEntry hv (loadHalf_get_loaded es ct k hv h)

/-- Settles O24: no load writes the framebuffer, and the look-up reads the loaded entry. -/
theorem loadRecolorsWithoutPixelWrite : Obligations.LoadRecolorsWithoutPixelWrite := by
  refine fun es s => ⟨⟨_, exec_loadColorTableLow es s, fun y x => ⟨cell_setCt s _ y x, fun h => ?_⟩⟩,
    ⟨_, exec_loadColorTableHigh es s, fun y x => ⟨cell_setCt s _ y x, fun k h => ?_⟩⟩⟩
  · rw [cell_setCt]
    exact lut_loadHalf es s.ct ⟨_, h⟩ (by omega) (Nat.zero_add _).symm
  · rw [cell_setCt]
    exact lut_loadHalf es s.ct k (by omega) h

end Sys2Proof.Machine
end

section
/-! PROOFS. The records that act as NoOp other than code 0 (R170 to R174). -/
namespace Sys2Proof.Machine

/-! ### Non-graphics records -/

/-- R174's effect: none. -/
theorem exec_nonGraphics (s : State) : exec .nonGraphics s = .next s := rfl

/-- Settles O1: the command gate of the decoder comes before the instruction code, and its arm answers the state itself. -/
theorem nonGraphicsRecordDoesNothing : Obligations.NonGraphicsRecordDoesNothing := by
  intro rec s hc
  have hdecode : decode rec = .nonGraphics := decode_of_not_command hc
  exact ⟨hdecode, hdecode ▸ exec_nonGraphics s, exec_nonGraphics s⟩

/-! ### Unimplemented and reserved codes -/

/-- The report of an instruction code, field by field (R104). -/
theorem unknownInstr_eq (code : BitVec 6) (s : State) : unknownInstr code s =
    { s with status := s.status ||| 0x01#8, diag := some { kind := .unknownInstr, code := code } } := rfl

section
variable {i : Instr} {k : BitVec 6} (hi : codeOf i ∉ [0, 1, 2, 6, 30, 31, 38])
include hi

/-- An instruction of any code but the seven implemented ones has no operand, so its code alone gives it back. -/
theorem decodeGraphics_codeOf_of_unimplemented (rec : Record) : decodeGraphics rec (codeOf i) = i := by
  cases i with
  | nop | memoryPreset | borderPreset | tileBlock | loadColorTableLow | loadColorTableHigh | tileBlockXor | nonGraphics =>
    exact absurd (by simp [codeOf]) hi
  | _ => rfl

variable (hk : codeOf i = k.toNat)
include hk

theorem decode_of_unimplemented_code {rec : Record} (hc : commandCode rec = 9) (hrec : instrCode rec = k) :
    decode rec = i := by
  rw [decode_of_codes hc hrec, ← hk, decodeGraphics_codeOf_of_unimplemented hi]

theorem exec_of_unimplemented_code (s : State) : exec i s =
    .next { s with status := s.status ||| 0x01#8, diag := some { kind := .unknownInstr, code := k } } := by
  rw [exec_of_unimplemented hi, hk, BitVec.ofNat_toNat, BitVec.setWidth_eq, unknownInstr_eq]

end

/-- Settles O26: each listed instruction has the code listed with it, which is none of the seven implemented ones. -/
theorem reservedCodesOnlyReport : Obligations.ReservedCodesOnlyReport := by
  intro p hp
  have hcodes : codeOf p.1 ∉ [0, 1, 2, 6, 30, 31, 38] ∧ codeOf p.1 = p.2.toNat := by
    revert p
    decide
  obtain ⟨hi, hk⟩ := hcodes
  exact ⟨fun _ => decode_of_unimplemented_code hi hk, exec_of_unimplemented_code hi hk⟩

/-- Settles O25: codes 20, 24 and 28 are none of the seven implemented ones. -/
theorem unimplementedCodesOnlyReport : Obligations.UnimplementedCodesOnlyReport := by
  have scroll : codeOf .scrollPreset ∉ [0, 1, 2, 6, 30, 31, 38] := by decide
  have copy : codeOf .scrollCopy ∉ [0, 1, 2, 6, 30, 31, 38] := by decide
  have transparent : codeOf .defineTransparentColor ∉ [0, 1, 2, 6, 30, 31, 38] := by decide
  exact ⟨fun _ hc => ⟨decode_of_unimplemented_code scroll rfl hc, decode_of_unimplemented_code copy rfl hc,
      decode_of_unimplemented_code transparent rfl hc⟩,
    fun s => ⟨exec_of_unimplemented_code scroll rfl s, exec_of_unimplemented_code copy rfl s,
      exec_of_unimplemented_code transparent rfl s⟩⟩

end Sys2Proof.Machine
end

section
/-! PROOFS. The compositor (R180 to R190): the look-up and the pixel, where the composite holds each of its pixels, the source's
row-by-row computation, and what an edge of a render leaves unchanged. -/
namespace Sys2Proof.Machine

/-! ### Look-up and pixel -/

/-- An index of the table shows its own entry (R182). -/
theorem lut_of_lt (ct : Vector ColorEntry 16) {v : Byte} (h : v.toNat < 16) :
    lut ct v = { r := ct[v.toNat].r, g := ct[v.toNat].g, b := ct[v.toNat].b } := by
  simp only [lut, clampIndex_of_lt h, Fin.getElem_fin]

/-- The clamp takes every value that is no index to the last entry (D7). -/
theorem clampIndex_of_ge {v : Byte} (h : 16 ≤ v.toNat) : clampIndex v = 15 :=
  Fin.ext (Nat.min_eq_right (by omega))

theorem lut_of_ge (ct : Vector ColorEntry 16) {v : Byte} (h : 16 ≤ v.toNat) :
    lut ct v = { r := ct[15].r, g := ct[15].g, b := ct[15].b } := by
  simp only [lut, clampIndex_of_ge h]
  rfl

/-- Settles O48: the clamp leaves an index as it is and takes every other value to 15. -/
theorem lookupClampsToFifteen : Obligations.LookupClampsToFifteen := fun ct _ => ⟨lut_of_lt ct, lut_of_ge ct⟩

/-- Settles O47: `quad` lists the four bytes for each order. -/
theorem quadPutsAlphaLast : Obligations.QuadPutsAlphaLast := fun _ => ⟨rfl, rfl⟩

/-! ### The pixels of a composite -/

/-- Vectors of one length laid end to end: the one at position `p` starts at `n * p`. -/
theorem take_drop_flatMap_toList {α β : Type} {n : Nat} (g : α → Vector β n) {l : List α} {p : Nat} {a : α}
    (h : l[p]? = some a) : ((l.flatMap fun c => (g c).toList).drop (n * p)).take n = (g a).toList := by
  induction l generalizing p with
  | nil => simp at h
  | cons c l ih =>
    rw [List.flatMap_cons]
    cases p with
    | zero =>
      obtain rfl : c = a := by simpa using h
      exact List.take_left' (Vector.length_toList)
    | succ p =>
      rw [Nat.mul_succ, Nat.add_comm, ← List.drop_drop, List.drop_left' Vector.length_toList]
      exact ih (by simpa using h)

/-- Output pixel `p` in raster order. -/
def rasterPixel (s : State) (scale : Nat) (order : ByteOrder) (p : Nat) : Vector Byte 4 :=
  outPixel s scale order (p / (300 * scale)) (p % (300 * scale))

/-- The rows of a composite one after the other are its pixels in raster order (R185). -/
theorem composite_eq_rasterPixels (s : State) (scale : Nat) (order : ByteOrder) : composite s scale order =
    (List.range (216 * scale * (300 * scale))).flatMap fun p => (rasterPixel s scale order p).toList :=
  (flatMap_range_mul (fun r c => (outPixel s scale order r c).toList) _ _).symm

/-- Settles O49: each of the pixels has four bytes. -/
theorem compositeLength : Obligations.CompositeLength := by
  intro s scale order
  rw [composite_eq_rasterPixels]
  simp only [List.length_flatMap, Vector.length_toList, List.map_const', List.length_range, List.sum_replicate, smul_eq_mul]
  ring

/-- The four bytes of the pixel in output row `r` and column `c`. -/
theorem take_drop_composite (s : State) {scale r c : Nat} (order : ByteOrder) (hr : r < 216 * scale) (hc : c < 300 * scale) :
    ((composite s scale order).drop (4 * (300 * scale * r + c))).take 4 = (outPixel s scale order r c).toList := by
  have hp : 300 * scale * r + c < 216 * scale * (300 * scale) := by nlinarith
  rw [composite_eq_rasterPixels, take_drop_flatMap_toList _ (List.getElem?_range hp), rasterPixel,
    Nat.mul_add_div (by omega), Nat.div_eq_of_lt hc, Nat.add_zero, Nat.mul_add_mod, Nat.mod_eq_of_lt hc]

/-! ### The block of a source cell -/

section
variable (s : State) {scale y x dy dx : Nat} (order : ByteOrder) (hy : y < 216) (hx : x < 300) (hdy : dy < scale)
  (hdx : dx < scale)
include hdy hdx

/-- Every output pixel of the block of a cell shows that cell (R184). -/
theorem outPixel_of_block :
    outPixel s scale order (scale * y + dy) (scale * x + dx) = quad (lut s.ct (cell s y x)) order := by
  have hscale : 0 < scale := Nat.zero_lt_of_lt hdy
  rw [outPixel, Nat.mul_add_div hscale, Nat.mul_add_div hscale, Nat.div_eq_of_lt hdy, Nat.div_eq_of_lt hdx, Nat.add_zero,
    Nat.add_zero]

include hy hx

theorem take_drop_composite_of_block :
    ((composite s scale order).drop (4 * (300 * scale * (scale * y + dy) + (scale * x + dx)))).take 4 =
      (quad (lut s.ct (cell s y x)) order).toList := by
  rw [take_drop_composite s order (by nlinarith) (by nlinarith), outPixel_of_block s order hdy hdx]

end

/-- Settles O50: byte `b` of the four bytes at the offset of a pixel of the block. -/
theorem sourceCellFillsItsBlock : Obligations.SourceCellFillsItsBlock := by
  intro s scale order y x dy dx b hy hx hdy hdx
  rw [← List.getElem?_drop, ← List.getElem?_take_of_lt b.isLt, take_drop_composite_of_block s order hy hx hdy hdx]
  simp

/-- Settles O52: at scale 1 the block of a cell is one pixel, and its number is the cell's linear address. -/
theorem scaleOneIsLinearOrder : Obligations.ScaleOneIsLinearOrder := by
  intro s order a b ha
  have hrow : addrRow a < 216 := by rw [addrRow]; omega
  have hcolumn : addrColumn a < 300 := Nat.mod_lt a (by decide)
  have haddr : 300 * 1 * (1 * addrRow a + 0) + (1 * addrColumn a + 0) = a := by
    simpa [cellAddr] using cellAddr_row_column a
  have h := sourceCellFillsItsBlock s 1 order _ _ 0 0 b hrow hcolumn Nat.one_pos Nat.one_pos
  rwa [haddr, cell_eq_memRead] at h

/-- Every channel that a record can load is a multiple of 17 (R103). -/
theorem expand_ne_of_mod {c : Byte} (h : c.toNat % 17 ≠ 0) (v : Nibble) : expand v ≠ c := by
  rintro rfl
  exact h (of_decide_eq_true (wfChannel_expand v))

/-- Settles O53: the four pixels of the cell's block at scale 2, the printed offsets, and that 10, 20 and 30 are no multiples
of 17. -/
theorem workedRenderExample : Obligations.WorkedRenderExample := by
  refine ⟨fun s y x i hy hx hi hr hg hb offset hoffset => ?_, fun _ => Iff.rfl, fun v => ?_⟩
  · have hlut : lut s.ct (cell s y x) = { r := 10, g := 20, b := 30 } := by
      rw [lut_of_lt s.ct (hi ▸ i.isLt)]
      simp only [hi, ← Fin.getElem_fin, hr, hg, hb]
    have hblock : ∀ dy < 2, ∀ dx < 2,
        ((composite s 2 .rgb).drop (4 * (600 * (2 * y + dy) + (2 * x + dx)))).take 4 = [10, 20, 30, 255] := by
      intro dy hdy dx hdx
      rw [take_drop_composite_of_block s .rgb hy hx hdy hdx, hlut]
      rfl
    simp only [List.mem_cons, List.not_mem_nil, or_false] at hoffset
    rcases hoffset with rfl | rfl | rfl | rfl
    · exact hblock 0 (by decide) 0 (by decide)
    · exact hblock 0 (by decide) 1 (by decide)
    · exact hblock 1 (by decide) 0 (by decide)
    · exact hblock 1 (by decide) 1 (by decide)
  · exact ⟨expand_ne_of_mod (by decide) v, expand_ne_of_mod (by decide) v, expand_ne_of_mod (by decide) v⟩

/-! ### Copies -/

theorem flatMap_range_const {α : Type} (l : List α) (n : Nat) :
    ((List.range n).flatMap fun _ => l) = (List.replicate n l).flatten := by
  rw [List.flatMap_def, List.map_const', List.length_range]

/-- Counting to `m * n` with the quotient by `n` visits each of `m` values `n` times. -/
theorem flatMap_range_mul_div {α : Type} (g : Nat → List α) (m n : Nat) :
    (List.range (m * n)).flatMap (fun p => g (p / n)) = (List.range m).flatMap fun i => (List.replicate n (g i)).flatten := by
  simp only [← flatMap_range_const]
  exact flatMap_range_mul (fun i _ => g i) m n

/-- Every pixel of the reset state is black, whatever the order: its cells and its color table hold 0 (R240). -/
theorem outPixel_reset (scale : Nat) (order : ByteOrder) (r c : Nat) :
    (outPixel State.reset scale order r c).toList = [0x00, 0x00, 0x00, 0xFF] := by
  cases order <;> rfl

/-- Settles O54: the composite is as many equal pixels as it has pixels. -/
theorem firstFrameIsBlack : Obligations.FirstFrameIsBlack := by
  intro scale order
  have hcount : 216 * scale * (300 * scale) = scale ^ 2 * 64800 := by ring
  simp only [composite_eq_rasterPixels, rasterPixel, outPixel_reset, flatMap_range_const, hcount]

/-! ### The row-by-row computation -/

/-- The one pass over a canonical list reads the cells in address order. -/
theorem cellsFrom_eq_map_memRead (n : Nat) {a : Nat} {m : Memory} (hm : Rising m) (ha : ∀ c ∈ m, a ≤ c.1) :
    cellsFrom n a m = (List.range' a n).map (memRead m) := by
  induction n generalizing a m with
  | zero => rfl
  | succ n ih =>
    rw [List.range'_succ, List.map_cons]
    cases m with
    | nil => rw [cellsFrom, ih hm (by simp), memRead_nil]
    | cons c m =>
      obtain ⟨hcm, hrising⟩ := List.pairwise_cons.1 hm
      rw [cellsFrom, memRead_cons]
      by_cases hca : c.1 = a
      · have hskip : ∀ x ∈ List.range' (a + 1) n, memRead (c :: m) x = memRead m x := fun x hx => by
          have hx : c.1 < x := hca ▸ (List.mem_range'_1.1 hx).1
          rw [memRead_cons, if_neg hx.ne, if_neg hx.le.not_gt]
        rw [if_pos hca, if_pos hca, ih hrising fun d hd => hca ▸ hcm d hd, List.map_congr_left hskip]
      · have hac : a < c.1 := (Ne.symm hca).lt_of_le (ha c List.mem_cons_self)
        rw [if_neg hca, if_neg hca, if_pos hac, ih hm]
        exact List.forall_mem_cons.2 ⟨hac, fun d hd => hac.trans (hcm d hd)⟩

/-- Row `y` of the cells read in address order is row `y` of the framebuffer (R51). -/
theorem take_drop_cellsFrom {s : State} (hm : memoryWf s.fb = true) {y : Nat} (hy : y < 216) :
    ((cellsFrom Config.fbCells 0 s.fb).drop (300 * y)).take 300 = (List.range 300).map (cell s y) := by
  rw [cellsFrom_eq_map_memRead _ (rising_of_memoryWf hm) fun _ _ => Nat.zero_le _]
  refine List.ext_getElem ?_ fun x _ _ => ?_
  · simp only [List.length_take, List.length_drop, List.length_map, List.length_range', List.length_range, Config.fbCells]
    omega
  · simp [cell, cellAddr]

/-- The output rows of source row `y` are that row scaled horizontally (R184). -/
theorem outRowBytes_eq_scaledRow (s : State) (scale : Nat) (order : ByteOrder) (outRow : Nat) :
    outRowBytes s scale order outRow = scaledRow s scale order ((List.range 300).map (cell s (outRow / scale))) := by
  rw [scaledRow, List.flatMap_map]
  exact flatMap_range_mul_div (fun x => (quad (lut s.ct (cell s (outRow / scale) x)) order).toList) 300 scale

/-- Settles O51: an output row depends on its source row only, so each source row's bytes come `scale` times. -/
theorem rowCopiesGiveTheComposite : Obligations.RowCopiesGiveTheComposite := by
  intro s scale order hm
  calc compositeByRows s scale order
      = (List.range 216).flatMap fun y =>
          (List.replicate scale (scaledRow s scale order ((List.range 300).map (cell s y)))).flatten :=
        List.flatMap_congr fun y hy => by rw [take_drop_cellsFrom hm (List.mem_range.1 hy)]
    _ = (List.range (216 * scale)).flatMap fun r =>
          scaledRow s scale order ((List.range 300).map (cell s (r / scale))) :=
        (flatMap_range_mul_div (fun y => scaledRow s scale order ((List.range 300).map (cell s y))) 216 scale).symm
    _ = composite s scale order := List.flatMap_congr fun r _ => (outRowBytes_eq_scaledRow s scale order r).symm

/-! ### Render requests -/

theorem scaleLegal_eq_false_iff {scale : Nat} : scaleLegal scale = false ↔ scale < 1 ∨ Config.maxScale < scale := by
  rw [← Bool.not_eq_true, scaleLegal_iff]
  omega

theorem offeredWord_of_illegal {s : State} {scale p : Nat} {order : ByteOrder} (hp : s.phase = .render scale order p)
    (hl : scaleLegal scale = false) : offeredWord s = none := by
  simp [offeredWord, hp, hl]

/-- BAD_SCALE is bit 3 of `STATUS`, and nothing else of the state changes but the diagnostic (R181, R214). -/
theorem badScale_eq (scale : Nat) (s : State) : badScale scale s =
    { s with status := s.status ||| 0x08#8, diag := some { kind := .badScale, code := BitVec.ofNat 6 (scale % 64) } } := by
  have hcode : BitVec.ofNat 6 (scale % 64) = BitVec.ofNat 6 scale := BitVec.eq_of_toNat_eq (by simp)
  rw [hcode]
  rfl

/-- Settles O42: an edge in RENDER with an illegal scale raises BAD_SCALE and completes. -/
theorem illegalScaleOnlyReports : Obligations.IllegalScaleOnlyReports := by
  intro s scale p order hp hscale hr
  have hl := scaleLegal_eq_false_iff.2 hscale
  refine ⟨by rw [portOutputs_out s hr, offeredWord_of_illegal hp hl], ?_⟩
  rw [step_of_render hr hp, renderEdge_of_illegal hl, badScale_eq]
  rfl

theorem render_of_legal {scale : Nat} (hl : scaleLegal scale = true) (order : ByteOrder) (s : State) :
    render scale order s = (s, composite s scale order) := if_pos hl

/-- An edge of a legal render changes the phase at most. -/
theorem renderEdge_eq_setPhase {scale : Nat} (hl : scaleLegal scale = true) (e : PortInputs) (order : ByteOrder) (p : Nat)
    (s : State) : ∃ ph, renderEdge e scale order p s = s.setPhase ph := by
  cases ho : e.outReady with
  | false => exact ⟨s.phase, renderEdge_of_stall hl ho s⟩
  | true =>
    by_cases hlast : p + 1 = outWords scale
    · exact ⟨_, renderEdge_of_last hl ho hlast s⟩
    · exact ⟨_, renderEdge_of_next hl ho hlast s⟩

/-- Settles O46: the transaction answers its own state, and an edge of it changes the phase at most. -/
theorem legalRenderOnlyReads : Obligations.LegalRenderOnlyReads := by
  intro s scale order h1 hmax
  have hl := scaleLegal_iff.2 ⟨h1, hmax⟩
  refine ⟨render_of_legal hl order s, fun p hp hr => ?_⟩
  obtain ⟨ph, hedge⟩ := renderEdge_eq_setPhase hl (nextEdge s) order p (sampleEdge s)
  exact ⟨_, step_of_render hr hp, by rw [hedge]; exact ⟨rfl, rfl, rfl⟩⟩

end Sys2Proof.Machine
end

section
/-! PROOFS. Conditions without exceptions (R210 to R214): a diagnostic takes the place of an instruction's effect, and no
state is without a next one. -/
namespace Sys2Proof.Machine

/-! ### A diagnostic in place of the effect -/

/-- The whole of what a report changes: the diagnostic, and the `STATUS` bit with its kind's number (R30, R211). -/
theorem raiseDiag_eq_kindValue (k : DiagKind) (c : BitVec 6) (s : State) : raiseDiag k c s =
    { s with status := s.status ||| 1#8 <<< (kindValue k).toNat, diag := some { kind := k, code := c } } :=
  congrArg (fun v => (s.setStatus v).setDiag (some { kind := k, code := c })) (setSticky_eq_kindValue k s.status)

/-- Either an instruction keeps the diagnostic, or reporting one is all it does (R214). -/
theorem ExecEffect.diag_eq_or_raise {i : Instr} {s t : State} (e : ExecEffect i s t) :
    t.diag = s.diag ∨ ∃ k c, t = raiseDiag k c s := by
  cases e with
  | unknown | outside => exact .inr ⟨_, _, rfl⟩
  | nothing | loadLow | loadHigh | border | draw => exact .inl rfl

/-- Settles O31: an instruction that keeps the diagnostic leaves none, so the one it leaves is its whole effect. -/
theorem diagnosticSkipsTheEffect : Obligations.DiagnosticSkipsTheEffect := by
  intro i s t d hs hexec hd
  obtain hkept | ⟨k, c, rfl⟩ := (effect_of_exec hexec).diag_eq_or_raise
  · rw [hkept, hs] at hd
    cases hd
  · cases hd
    exact raiseDiag_eq_kindValue k c s

/-! ### Every state has a next one -/

/-- Settles O43: a reset and an edge in IDLE or RENDER answer a state outright, and in APPLY the decoded instruction always
completes. -/
theorem noConditionIsFatal : Obligations.NoConditionIsFatal := by
  intro s
  cases hr : (nextEdge s).rst with
  | true => exact ⟨_, step_of_rst hr⟩
  | false =>
    cases hp : s.phase with
    | idle => exact ⟨_, step_of_idle hr hp⟩
    | apply rec =>
      obtain ⟨t, -, hstep⟩ := step_runs_record hr hp
      exact ⟨_, hstep⟩
    | render scale order p => exact ⟨_, step_of_render hr hp⟩

end Sys2Proof.Machine
end

section
/-! PROOFS. Reset in every phase (R240, R241, R253), and the host's duty of R252: with legal scales only, `BAD_SCALE` is never
set. -/
namespace Sys2Proof.Machine

/-! ### Reset -/

theorem cell_resetBlock (s : State) (y x : Nat) : cell (resetBlock s) y x = 0 := rfl

theorem resetBlock_ct_get (s : State) (i : Fin 16) : (resetBlock s).ct[i] = { r := 0, g := 0, b := 0, a := 0 } := by simp

theorem stickySet_resetBlock (k : DiagKind) (s : State) : stickySet k (resetBlock s).status = false := by simp [stickySet]

/-- Settles O36: the edge answers `resetBlock` whatever the phase, and that overwrites everything but the host's inputs. -/
theorem resetAtAnyEdge : Obligations.ResetAtAnyEdge := fun s hr =>
  ⟨resetBlock (sampleEdge s), step_of_rst hr, cell_resetBlock _, resetBlock_ct_get _, rfl, rfl, rfl, rfl, rfl⟩

/-- A reset needs nothing of the state it finds: the invariant holds after it as soon as the host's scales fit their wires. -/
theorem inv_resetBlock {s : State} (hs : ∀ e ∈ s.edges, scaleFits e.rndScale = true) : Inv (resetBlock s) where
  memory := rfl
  cells y x := by simp [cell_resetBlock]
  colors i := by rw [resetBlock_ct_get]; rfl
  reservedBits := by simp
  noUnknownTag := stickySet_resetBlock _ s
  noTagDiag _ hd := nomatch hd
  wordsLeft _ _ _ hp := nomatch hp
  scaleHeld _ _ _ hp := nomatch hp
  scaleDriven := hs

/-- Settles O59: the reset state is what a reset makes of itself, with no edge announced. -/
theorem resetMeetsInvariant : Obligations.ResetMeetsInvariant := inv_resetBlock (s := State.reset) nofun

/-! ### The edges a step leaves -/

theorem acceptEdge_edges (e : PortInputs) (s : State) : (acceptEdge e s).edges = s.edges := by
  unfold acceptEdge
  split_ifs <;> rfl

theorem renderEdge_edges (e : PortInputs) (scale : Nat) (order : ByteOrder) (p : Nat) (s : State) :
    (renderEdge e scale order p s).edges = s.edges := by
  unfold renderEdge
  split_ifs <;> rfl

/-- A step uses up one edge and no more, whatever it does. -/
theorem StepEffect.edges_eq {s t : State} (e : StepEffect s t) : t.edges = s.edges.tail := by
  cases e with
  | reset => rfl
  | idle => exact acceptEdge_edges _ _
  | apply rec u _ _ hu => exact (effect_of_exec hu).edges_eq
  | render scale order p => exact renderEdge_edges _ _ _ _ _

/-! ### Where the scale of a render in progress comes from -/

/-- A block at rest enters a render by the request at this edge only, and with its scale. -/
theorem acceptEdge_phase_render {e : PortInputs} {s : State} {scale p : Nat} {order : ByteOrder} (hs : s.phase = .idle)
    (h : (acceptEdge e s).phase = .render scale order p) : e.rndValid = true ∧ e.rndScale = scale := by
  unfold acceptEdge at h
  split_ifs at h with hrec hrnd
  · cases h
  · cases h
    exact ⟨(Bool.and_eq_true_iff.1 hrnd).2, rfl⟩
  · rw [hs] at h
    cases h

/-- A render that goes on keeps its scale. -/
theorem renderEdge_phase_render {e : PortInputs} {s : State} {scale scale' p p' : Nat} {order order' : ByteOrder}
    (hs : s.phase = .render scale order p) (h : (renderEdge e scale order p s).phase = .render scale' order' p') :
    scale' = scale := by
  unfold renderEdge at h
  split_ifs at h
  · cases h
  · cases h
    rfl
  · rw [hs] at h
    cases h
    rfl
  · cases h

/-- The scale of a render in progress was in progress before the step, or was requested at its edge. -/
theorem StepEffect.phase_render {s t : State} {scale p : Nat} {order : ByteOrder} (e : StepEffect s t)
    (h : t.phase = .render scale order p) :
    (∃ order' p', s.phase = .render scale order' p') ∨ ((nextEdge s).rndValid = true ∧ (nextEdge s).rndScale = scale) := by
  cases e with
  | reset => cases h
  | idle _ hp => exact .inr (acceptEdge_phase_render (s := sampleEdge s) hp h)
  | apply => cases h
  | render scale' order' p' _ hp =>
    obtain rfl := renderEdge_phase_render (s := sampleEdge s) hp h
    exact .inl ⟨_, _, hp⟩

/-! ### `BAD_SCALE` under a dutiful host (R252) -/

/-- A request at the next edge carries a legal scale; with no edge announced there is no request. -/
theorem scaleLegal_nextEdge {s : State} (hs : ∀ e ∈ s.edges, hostDuty e = true) (hv : (nextEdge s).rndValid = true) :
    scaleLegal (nextEdge s).rndScale = true := by
  cases hes : s.edges with
  | nil => simp [nextEdge, hes, PortInputs.quiet] at hv
  | cons e es =>
    rw [nextEdge_cons hes] at hv ⊢
    simpa [hostDuty, hv] using hs e (by simp [hes])

/-- No instruction touches `BAD_SCALE`: the kinds it can raise are the other two. -/
theorem ExecEffect.stickySet_badScale {i : Instr} {s t : State} (e : ExecEffect i s t) :
    stickySet .badScale t.status = stickySet .badScale s.status := by
  cases e with
  | unknown | outside => simp [stickySet_setSticky]
  | nothing | loadLow | loadHigh | border | draw => rfl

/-- Only an edge of a render with an illegal scale sets `BAD_SCALE`. -/
theorem StepEffect.stickySet_badScale {s t : State} (e : StepEffect s t)
    (hlegal : ∀ scale order p, s.phase = .render scale order p → scaleLegal scale = true)
    (hclear : stickySet .badScale s.status = false) : stickySet .badScale t.status = false := by
  cases e with
  | reset => exact stickySet_resetBlock _ _
  | idle => rwa [acceptEdge_status]
  | apply rec u _ _ hu => exact (effect_of_exec hu).stickySet_badScale.trans hclear
  | render scale order p _ hp => rwa [(renderEdge_diag_status (hlegal _ _ _ hp) _).2]

/-- Settles O45: the coming edges are among those before, a render's scale is old or requested by a dutiful host, and
only an illegal scale sets `BAD_SCALE`. -/
theorem dutifulHostNeverSetsBadScale : Obligations.DutifulHostNeverSetsBadScale := by
  intro s t hduty hlegal hclear hstep
  have e := effect_of_step hstep
  refine ⟨fun edge hedge => ?_, fun scale order p hp => ?_, e.stickySet_badScale hlegal hclear⟩
  · rw [e.edges_eq] at hedge
    exact hduty edge (List.mem_of_mem_tail hedge)
  · obtain ⟨order', p', hold⟩ | ⟨hvalid, rfl⟩ := e.phase_render hp
    · exact hlegal _ _ _ hold
    · exact scaleLegal_nextEdge hduty hvalid

end Sys2Proof.Machine
end
